-- ==== Sys2Proof/Word.lean ====
section
/-! DEFINITION. The two words of boyo CORE (rule R6: XLEN8 = 8, ALEN = 16). -/

namespace Sys2Proof

/-- A byte: the width of a general register and of a memory cell. -/
abbrev Byte := BitVec 8

/-- An address, the program counter or the stack pointer. -/
abbrev Word := BitVec 16

end Sys2Proof
end

