-- ==== Sys2Proof/Syntax.lean ====
section
/-! DEFINITION. The instructions of boyo CORE: one constructor of Instr per row of spec/opcode_table.json, the tags of
rule R33 they stand for, the formats of rules R111 to R113, and an instruction as it stands in the instruction stream. -/

namespace Sys2Proof

/-- The eight 8-bit registers of the bank, in the order of rule R20. -/
inductive Reg8 where
  | A | B | C | D | E | F | H | L
  deriving DecidableEq, Repr

/-- The seven registers an instruction can name, in the order of their codes (rule R115; F has no code). -/
inductive OpReg where
  | B | C | D | E | H | L | A
  deriving DecidableEq, Repr

/-- The tags of rule R33: the identity of an instruction with the operand information the opcode byte fixes.
`NONE` is the power-on sentinel. -/
inductive Tag where
  | NONE
  | NOP
  | LD_R_N (dst : OpReg)
  | LD_R_R (dst src : OpReg)
  | LD_HL_R (src : OpReg)
  | JP_NN
  deriving DecidableEq, Repr

/-- The three instruction formats: one, two and three bytes (rules R111, R112, R113). -/
inductive Format where
  | F1 | F2 | F3
  deriving DecidableEq, Repr

/-- One constructor per row of spec/opcode_table.json (rule R118). None carries data: a tag carries "only the operand
information fixed by the opcode byte itself", not immediate data (rule R33). -/
inductive Instr where
  /-- `NOP`, opcode 0x00. -/
  | nop
  /-- `LD B,n`, opcode 0x06. -/
  | ld_B_n
  /-- `LD C,n`, opcode 0x0E. -/
  | ld_C_n
  /-- `LD D,n`, opcode 0x16. -/
  | ld_D_n
  /-- `LD E,n`, opcode 0x1E. -/
  | ld_E_n
  /-- `LD H,n`, opcode 0x26. -/
  | ld_H_n
  /-- `LD L,n`, opcode 0x2E. -/
  | ld_L_n
  /-- `LD A,n`, opcode 0x3E. -/
  | ld_A_n
  /-- `LD B,B`, opcode 0x40. -/
  | ld_B_B
  /-- `LD B,C`, opcode 0x41. -/
  | ld_B_C
  /-- `LD B,D`, opcode 0x42. -/
  | ld_B_D
  /-- `LD B,E`, opcode 0x43. -/
  | ld_B_E
  /-- `LD B,H`, opcode 0x44. -/
  | ld_B_H
  /-- `LD B,L`, opcode 0x45. -/
  | ld_B_L
  /-- `LD B,A`, opcode 0x47. -/
  | ld_B_A
  /-- `LD C,B`, opcode 0x48. -/
  | ld_C_B
  /-- `LD C,C`, opcode 0x49. -/
  | ld_C_C
  /-- `LD C,D`, opcode 0x4A. -/
  | ld_C_D
  /-- `LD C,E`, opcode 0x4B. -/
  | ld_C_E
  /-- `LD C,H`, opcode 0x4C. -/
  | ld_C_H
  /-- `LD C,L`, opcode 0x4D. -/
  | ld_C_L
  /-- `LD C,A`, opcode 0x4F. -/
  | ld_C_A
  /-- `LD D,B`, opcode 0x50. -/
  | ld_D_B
  /-- `LD D,C`, opcode 0x51. -/
  | ld_D_C
  /-- `LD D,D`, opcode 0x52. -/
  | ld_D_D
  /-- `LD D,E`, opcode 0x53. -/
  | ld_D_E
  /-- `LD D,H`, opcode 0x54. -/
  | ld_D_H
  /-- `LD D,L`, opcode 0x55. -/
  | ld_D_L
  /-- `LD D,A`, opcode 0x57. -/
  | ld_D_A
  /-- `LD E,B`, opcode 0x58. -/
  | ld_E_B
  /-- `LD E,C`, opcode 0x59. -/
  | ld_E_C
  /-- `LD E,D`, opcode 0x5A. -/
  | ld_E_D
  /-- `LD E,E`, opcode 0x5B. -/
  | ld_E_E
  /-- `LD E,H`, opcode 0x5C. -/
  | ld_E_H
  /-- `LD E,L`, opcode 0x5D. -/
  | ld_E_L
  /-- `LD E,A`, opcode 0x5F. -/
  | ld_E_A
  /-- `LD H,B`, opcode 0x60. -/
  | ld_H_B
  /-- `LD H,C`, opcode 0x61. -/
  | ld_H_C
  /-- `LD H,D`, opcode 0x62. -/
  | ld_H_D
  /-- `LD H,E`, opcode 0x63. -/
  | ld_H_E
  /-- `LD H,H`, opcode 0x64. -/
  | ld_H_H
  /-- `LD H,L`, opcode 0x65. -/
  | ld_H_L
  /-- `LD H,A`, opcode 0x67. -/
  | ld_H_A
  /-- `LD L,B`, opcode 0x68. -/
  | ld_L_B
  /-- `LD L,C`, opcode 0x69. -/
  | ld_L_C
  /-- `LD L,D`, opcode 0x6A. -/
  | ld_L_D
  /-- `LD L,E`, opcode 0x6B. -/
  | ld_L_E
  /-- `LD L,H`, opcode 0x6C. -/
  | ld_L_H
  /-- `LD L,L`, opcode 0x6D. -/
  | ld_L_L
  /-- `LD L,A`, opcode 0x6F. -/
  | ld_L_A
  /-- `LD (HL),B`, opcode 0x70. -/
  | ld_atHL_B
  /-- `LD (HL),C`, opcode 0x71. -/
  | ld_atHL_C
  /-- `LD (HL),D`, opcode 0x72. -/
  | ld_atHL_D
  /-- `LD (HL),E`, opcode 0x73. -/
  | ld_atHL_E
  /-- `LD (HL),H`, opcode 0x74. -/
  | ld_atHL_H
  /-- `LD (HL),L`, opcode 0x75. -/
  | ld_atHL_L
  /-- `LD (HL),A`, opcode 0x77. -/
  | ld_atHL_A
  /-- `LD A,B`, opcode 0x78. -/
  | ld_A_B
  /-- `LD A,C`, opcode 0x79. -/
  | ld_A_C
  /-- `LD A,D`, opcode 0x7A. -/
  | ld_A_D
  /-- `LD A,E`, opcode 0x7B. -/
  | ld_A_E
  /-- `LD A,H`, opcode 0x7C. -/
  | ld_A_H
  /-- `LD A,L`, opcode 0x7D. -/
  | ld_A_L
  /-- `LD A,A`, opcode 0x7F. -/
  | ld_A_A
  /-- `JP nn`, opcode 0xC3. -/
  | jp_nn
  deriving DecidableEq, Repr

/-- The tag of an instruction (rules R33, R118). -/
def Instr.tag : Instr → Tag
  | .nop => .NOP
  | .ld_B_n => .LD_R_N .B
  | .ld_C_n => .LD_R_N .C
  | .ld_D_n => .LD_R_N .D
  | .ld_E_n => .LD_R_N .E
  | .ld_H_n => .LD_R_N .H
  | .ld_L_n => .LD_R_N .L
  | .ld_A_n => .LD_R_N .A
  | .ld_B_B => .LD_R_R .B .B
  | .ld_B_C => .LD_R_R .B .C
  | .ld_B_D => .LD_R_R .B .D
  | .ld_B_E => .LD_R_R .B .E
  | .ld_B_H => .LD_R_R .B .H
  | .ld_B_L => .LD_R_R .B .L
  | .ld_B_A => .LD_R_R .B .A
  | .ld_C_B => .LD_R_R .C .B
  | .ld_C_C => .LD_R_R .C .C
  | .ld_C_D => .LD_R_R .C .D
  | .ld_C_E => .LD_R_R .C .E
  | .ld_C_H => .LD_R_R .C .H
  | .ld_C_L => .LD_R_R .C .L
  | .ld_C_A => .LD_R_R .C .A
  | .ld_D_B => .LD_R_R .D .B
  | .ld_D_C => .LD_R_R .D .C
  | .ld_D_D => .LD_R_R .D .D
  | .ld_D_E => .LD_R_R .D .E
  | .ld_D_H => .LD_R_R .D .H
  | .ld_D_L => .LD_R_R .D .L
  | .ld_D_A => .LD_R_R .D .A
  | .ld_E_B => .LD_R_R .E .B
  | .ld_E_C => .LD_R_R .E .C
  | .ld_E_D => .LD_R_R .E .D
  | .ld_E_E => .LD_R_R .E .E
  | .ld_E_H => .LD_R_R .E .H
  | .ld_E_L => .LD_R_R .E .L
  | .ld_E_A => .LD_R_R .E .A
  | .ld_H_B => .LD_R_R .H .B
  | .ld_H_C => .LD_R_R .H .C
  | .ld_H_D => .LD_R_R .H .D
  | .ld_H_E => .LD_R_R .H .E
  | .ld_H_H => .LD_R_R .H .H
  | .ld_H_L => .LD_R_R .H .L
  | .ld_H_A => .LD_R_R .H .A
  | .ld_L_B => .LD_R_R .L .B
  | .ld_L_C => .LD_R_R .L .C
  | .ld_L_D => .LD_R_R .L .D
  | .ld_L_E => .LD_R_R .L .E
  | .ld_L_H => .LD_R_R .L .H
  | .ld_L_L => .LD_R_R .L .L
  | .ld_L_A => .LD_R_R .L .A
  | .ld_atHL_B => .LD_HL_R .B
  | .ld_atHL_C => .LD_HL_R .C
  | .ld_atHL_D => .LD_HL_R .D
  | .ld_atHL_E => .LD_HL_R .E
  | .ld_atHL_H => .LD_HL_R .H
  | .ld_atHL_L => .LD_HL_R .L
  | .ld_atHL_A => .LD_HL_R .A
  | .ld_A_B => .LD_R_R .A .B
  | .ld_A_C => .LD_R_R .A .C
  | .ld_A_D => .LD_R_R .A .D
  | .ld_A_E => .LD_R_R .A .E
  | .ld_A_H => .LD_R_R .A .H
  | .ld_A_L => .LD_R_R .A .L
  | .ld_A_A => .LD_R_R .A .A
  | .jp_nn => .JP_NN

/-- The format of a tag (the table of rule R118). The sentinel has no encoding (rule R127) and is given F1. -/
def Tag.format : Tag → Format
  | .NONE => .F1
  | .NOP => .F1
  | .LD_R_N _ => .F2
  | .LD_R_R _ _ => .F1
  | .LD_HL_R _ => .F1
  | .JP_NN => .F3

/-- How many operand bytes follow the opcode byte (rules R110 to R113). -/
def Format.operandBytes : Format → Nat
  | .F1 => 0
  | .F2 => 1
  | .F3 => 2

/-- The operand bytes of an instruction: "the length is a function of the tag alone" (rule R110). -/
def Instr.operandBytes (i : Instr) : Nat := i.tag.format.operandBytes

/-- An instruction as it stands in the instruction stream: its tag and the operand bytes that follow it (rule R110). -/
structure StreamInstr where
  instr    : Instr
  operands : List Byte
  deriving DecidableEq, Repr

end Sys2Proof
end

