-- ==== Sys2Proof/WellFormed.lean ====
section
/-! DEFINITION. The check on an instruction as it stands in the instruction stream. Every Instr is well-formed by its
type (F cannot be named, the code 0b110 is no register); what can be wrong is the number of operand bytes. -/

namespace Sys2Proof

/-- The format's operand bytes are all there and no more (rules R110 to R113). -/
def StreamInstr.wellFormed (x : StreamInstr) : Bool := x.operands.length == x.instr.operandBytes

end Sys2Proof
end

