-- ==== Sys2Proof/Decode.lean ====
section
/-! DEFINITION. The instruction decoder (30_encoding.md): DECODE by the fields of the opcode byte, the M-cycle counts,
the decoding of a byte stream, the encoder written from the byte lists of rule R118, and the host's decodeTableWord. -/

namespace Sys2Proof

/-! ## DECODE by fields (rules R114, R115, R118, R119) -/

/-- `opcode[7:6]`, the group (rule R114). -/
def fieldGroup (b : Byte) : BitVec 2 := b.extractLsb' 6 2

/-- `opcode[5:3]`, the field `ddd` (rule R114). -/
def fieldDdd (b : Byte) : BitVec 3 := b.extractLsb' 3 3

/-- `opcode[2:0]`, the field `sss` (rule R114). -/
def fieldSss (b : Byte) : BitVec 3 := b.extractLsb' 0 3

/-- The operand a 3-bit code names (rule R115): a register, or the byte at HL. -/
inductive CodeOperand where
  | reg (r : OpReg)
  | atHL
  deriving DecidableEq, Repr

/-- The table of rule R115. -/
def codeOperand (c : BitVec 3) : CodeOperand :=
  match c.toNat with
  | 0 => .reg .B
  | 1 => .reg .C
  | 2 => .reg .D
  | 3 => .reg .E
  | 4 => .reg .H
  | 5 => .reg .L
  | 6 => .atHL
  | _ => .reg .A

/-- What DECODE answers: an instruction, or `Unrecognized`, "a first-class outcome, not a fault" (rule R119). -/
inductive DecodeResult where
  | recognized (i : Instr)
  | unrecognized
  deriving DecidableEq, Repr

/-- The instruction `LD r,n` of a destination. -/
def ldImmediate : OpReg → Instr
  | .B => .ld_B_n
  | .C => .ld_C_n
  | .D => .ld_D_n
  | .E => .ld_E_n
  | .H => .ld_H_n
  | .L => .ld_L_n
  | .A => .ld_A_n

/-- The instruction `LD r,r'` of a destination and a source. -/
def ldRegister : OpReg → OpReg → Instr
  | .B, .B => .ld_B_B
  | .B, .C => .ld_B_C
  | .B, .D => .ld_B_D
  | .B, .E => .ld_B_E
  | .B, .H => .ld_B_H
  | .B, .L => .ld_B_L
  | .B, .A => .ld_B_A
  | .C, .B => .ld_C_B
  | .C, .C => .ld_C_C
  | .C, .D => .ld_C_D
  | .C, .E => .ld_C_E
  | .C, .H => .ld_C_H
  | .C, .L => .ld_C_L
  | .C, .A => .ld_C_A
  | .D, .B => .ld_D_B
  | .D, .C => .ld_D_C
  | .D, .D => .ld_D_D
  | .D, .E => .ld_D_E
  | .D, .H => .ld_D_H
  | .D, .L => .ld_D_L
  | .D, .A => .ld_D_A
  | .E, .B => .ld_E_B
  | .E, .C => .ld_E_C
  | .E, .D => .ld_E_D
  | .E, .E => .ld_E_E
  | .E, .H => .ld_E_H
  | .E, .L => .ld_E_L
  | .E, .A => .ld_E_A
  | .H, .B => .ld_H_B
  | .H, .C => .ld_H_C
  | .H, .D => .ld_H_D
  | .H, .E => .ld_H_E
  | .H, .H => .ld_H_H
  | .H, .L => .ld_H_L
  | .H, .A => .ld_H_A
  | .L, .B => .ld_L_B
  | .L, .C => .ld_L_C
  | .L, .D => .ld_L_D
  | .L, .E => .ld_L_E
  | .L, .H => .ld_L_H
  | .L, .L => .ld_L_L
  | .L, .A => .ld_L_A
  | .A, .B => .ld_A_B
  | .A, .C => .ld_A_C
  | .A, .D => .ld_A_D
  | .A, .E => .ld_A_E
  | .A, .H => .ld_A_H
  | .A, .L => .ld_A_L
  | .A, .A => .ld_A_A

/-- The instruction `LD (HL),r` of a source. -/
def ldAtHL : OpReg → Instr
  | .B => .ld_atHL_B
  | .C => .ld_atHL_C
  | .D => .ld_atHL_D
  | .E => .ld_atHL_E
  | .H => .ld_atHL_H
  | .L => .ld_atHL_L
  | .A => .ld_atHL_A

/-- DECODE of group 0b00 (rule R114): `LD r,n` when `sss` is 0b110 and the destination is a register. -/
def decodeGroup0 (ddd sss : CodeOperand) : DecodeResult :=
  match ddd, sss with
  | .reg r, .atHL => .recognized (ldImmediate r)
  | .atHL, .atHL => .unrecognized
  | _, .reg _ => .unrecognized

/-- DECODE of group 0b01 (rule R114): a move, or a store when the destination code is 0b110. A source code 0b110 is
Unrecognized (rule R115). -/
def decodeGroup1 (ddd sss : CodeOperand) : DecodeResult :=
  match ddd, sss with
  | .reg d, .reg s => .recognized (ldRegister d s)
  | .atHL, .reg s => .recognized (ldAtHL s)
  | _, .atHL => .unrecognized

/-- `DECODE(b)` (rule R118): a pure function of the opcode byte alone (rule R119). 0x00 and 0xC3 are decoded as whole
bytes (rule R114). Every other byte outside the two groups is Unrecognized (rules R121, R122). -/
def decode (b : Byte) : DecodeResult :=
  if b = 0x00#8 then .recognized .nop
  else if b = 0xC3#8 then .recognized .jp_nn
  else
    match (fieldGroup b).toNat with
    | 0 => decodeGroup0 (codeOperand (fieldDdd b)) (codeOperand (fieldSss b))
    | 1 => decodeGroup1 (codeOperand (fieldDdd b)) (codeOperand (fieldSss b))
    | _ => .unrecognized

/-! ## M-cycle counts (rule R120) -/

/-- `CYCLES(t)` (rule R120; LD r,r' and LD (HL),r by D8, log 12): 0 for the sentinel only (D5, log 43). -/
def Tag.cycles : Tag → Nat
  | .NONE => 0
  | .NOP => 1
  | .LD_R_N _ => 2
  | .LD_R_R _ _ => 1
  | .LD_HL_R _ => 2
  | .JP_NN => 4

/-- `CYCLES` of an instruction. -/
def Instr.cycles (i : Instr) : Nat := i.tag.cycles

/-! ## A byte stream (rule R123) -/

/-- What decoding a list of bytes answers. Every rejection has its name. -/
inductive StreamResult where
  /-- An instruction, and the bytes after it. -/
  | ok (x : StreamInstr) (rest : List Byte)
  /-- There is no byte. -/
  | empty
  /-- The opcode byte is Unrecognized (rule R121). -/
  | unrecognized (b : Byte)
  /-- The stream ends before the operand bytes of `i` do. -/
  | truncated (i : Instr)
  deriving DecidableEq, Repr

/-- "A decoder of a byte stream takes the opcode byte, applies DECODE, and takes the length from the tag" (rule R123). -/
def decodeStream : List Byte → StreamResult
  | [] => .empty
  | b :: rest =>
    match decode b with
    | .unrecognized => .unrecognized b
    | .recognized i =>
      if rest.length < i.operandBytes then .truncated i
      else .ok { instr := i, operands := rest.take i.operandBytes } (rest.drop i.operandBytes)

/-! ## The encoder, from the byte lists of rule R118 -/

/-- The opcode byte of an instruction, read off the lists of rule R118. -/
def Instr.opcode : Instr → Byte
  | .nop => 0x00#8
  | .ld_B_n => 0x06#8
  | .ld_C_n => 0x0E#8
  | .ld_D_n => 0x16#8
  | .ld_E_n => 0x1E#8
  | .ld_H_n => 0x26#8
  | .ld_L_n => 0x2E#8
  | .ld_A_n => 0x3E#8
  | .ld_B_B => 0x40#8
  | .ld_B_C => 0x41#8
  | .ld_B_D => 0x42#8
  | .ld_B_E => 0x43#8
  | .ld_B_H => 0x44#8
  | .ld_B_L => 0x45#8
  | .ld_B_A => 0x47#8
  | .ld_C_B => 0x48#8
  | .ld_C_C => 0x49#8
  | .ld_C_D => 0x4A#8
  | .ld_C_E => 0x4B#8
  | .ld_C_H => 0x4C#8
  | .ld_C_L => 0x4D#8
  | .ld_C_A => 0x4F#8
  | .ld_D_B => 0x50#8
  | .ld_D_C => 0x51#8
  | .ld_D_D => 0x52#8
  | .ld_D_E => 0x53#8
  | .ld_D_H => 0x54#8
  | .ld_D_L => 0x55#8
  | .ld_D_A => 0x57#8
  | .ld_E_B => 0x58#8
  | .ld_E_C => 0x59#8
  | .ld_E_D => 0x5A#8
  | .ld_E_E => 0x5B#8
  | .ld_E_H => 0x5C#8
  | .ld_E_L => 0x5D#8
  | .ld_E_A => 0x5F#8
  | .ld_H_B => 0x60#8
  | .ld_H_C => 0x61#8
  | .ld_H_D => 0x62#8
  | .ld_H_E => 0x63#8
  | .ld_H_H => 0x64#8
  | .ld_H_L => 0x65#8
  | .ld_H_A => 0x67#8
  | .ld_L_B => 0x68#8
  | .ld_L_C => 0x69#8
  | .ld_L_D => 0x6A#8
  | .ld_L_E => 0x6B#8
  | .ld_L_H => 0x6C#8
  | .ld_L_L => 0x6D#8
  | .ld_L_A => 0x6F#8
  | .ld_atHL_B => 0x70#8
  | .ld_atHL_C => 0x71#8
  | .ld_atHL_D => 0x72#8
  | .ld_atHL_E => 0x73#8
  | .ld_atHL_H => 0x74#8
  | .ld_atHL_L => 0x75#8
  | .ld_atHL_A => 0x77#8
  | .ld_A_B => 0x78#8
  | .ld_A_C => 0x79#8
  | .ld_A_D => 0x7A#8
  | .ld_A_E => 0x7B#8
  | .ld_A_H => 0x7C#8
  | .ld_A_L => 0x7D#8
  | .ld_A_A => 0x7F#8
  | .jp_nn => 0xC3#8

/-- The bytes of an instruction at ascending addresses: opcode first, then the operand bytes (rules R80, R110). -/
def encode (x : StreamInstr) : List Byte := x.instr.opcode :: x.operands

/-- `JP nn` as it stands in the stream: high byte of the target first (rules R80, R113). -/
def jumpTo (target : Word) : StreamInstr :=
  { instr := .jp_nn, operands := [target.extractLsb' 8 8, target.extractLsb' 0 8] }

/-! ## The host's view of a table word -/

/-- The three bytes (the longest instruction) of a table word: byte k is bits 8k+7 to 8k, and every bit above `nbits`
is 0. -/
def tableBytes (nbits w : Nat) : List Byte :=
  let v := w % 2 ^ nbits
  [BitVec.ofNat 8 v, BitVec.ofNat 8 (v / 256), BitVec.ofNat 8 (v / 65536)]

/-- The instruction the decoder reads from a table word. -/
def decodeTableWord (nbits w : Nat) : Option Instr :=
  match decodeStream (tableBytes nbits w) with
  | .ok x _ => some x.instr
  | .empty => none
  | .unrecognized _ => none
  | .truncated _ => none

end Sys2Proof
end

