-- ==== Sys2Proof/Config.lean ====
section
/-! DEFINITION. What an implementation of boyo CORE fixes and the spec leaves without a value (rule R6). The parameters
to which the spec gives a default stand in Sys2Proof/Machine/Params.lean. -/

namespace Sys2Proof

/-- HISTORY_CAPACITY is "OPEN, at least 1" (rule R6, decision D32): this constant has no body, so a claim that uses it
holds for every capacity. Log 18. -/
opaque Config.historyCapacityLessOne : Nat

/-- HISTORY_CAPACITY, at least 1 by its form. -/
def Config.historyCapacity : Nat := Config.historyCapacityLessOne + 1

end Sys2Proof
end

