-- ==== Sys2Proof/Machine/Bits.lean ====
section
/-! DEFINITION. Splitting and joining words, the stored form of F, and hexadecimal digits. -/

namespace Sys2Proof.Machine

/-- `v[15:8]` (rule R7). -/
def hiByte (v : Word) : Byte := v.extractLsb' 8 8

/-- `v[7:0]` (rule R7). -/
def loByte (v : Word) : Byte := v.extractLsb' 0 8

/-- `hi : lo`, the first byte more significant (rules R7, R26, R80). -/
def joinBytes (hi lo : Byte) : Word := BitVec.ofNat 16 (hi.toNat * 256 + lo.toNat)

/-- The stored form of a value written to F: `v[7:4] : 0b0000` (rule R24). -/
def maskF (v : Byte) : Byte := v &&& 0xF0#8

/-- One upper-case hexadecimal digit (rules R222, R228). -/
def hexDigit (n : Nat) : Char :=
  if n < 10 then Char.ofNat (48 + n) else Char.ofNat (55 + n)

/-- `HH`: two upper-case hexadecimal digits (rule R228). -/
def hexByte (v : Byte) : List Char := [hexDigit (v.toNat / 16), hexDigit (v.toNat % 16)]

/-- `0xHH` (rule R228). -/
def showByte (v : Byte) : List Char := '0' :: 'x' :: hexByte v

/-- `0xHHHH` (rule R222). -/
def showWord (v : Word) : List Char := '0' :: 'x' :: (hexByte (hiByte v) ++ hexByte (loByte v))

end Sys2Proof.Machine
end

