-- ==== Sys2Proof/Machine/Params.lean ====
section
/-! DEFINITION. The parameters of rule R6 to which the spec gives a default value. They stand under Machine/ so that a
later repair may change a value. REGION_MAP and BACKING stand in Regions.lean, DECODE and CYCLES in Decode.lean. -/

namespace Sys2Proof.Machine

/-- PC_RESET. PRESUMED: the default of rule R46 is the family's entry address (D1), log 1. -/
def Params.pcReset : Word := 0x0100#16

/-- SP_RESET. PRESUMED: the default of rule R46 is the family's top of high RAM (D2), log 2. -/
def Params.spReset : Word := 0xFFFE#16

/-- REG_RESET[r]. DESIGN CHOICE: the spec leaves it open and names this simulation default (D3), log 3. -/
def Params.regReset : Reg8 → Byte := fun _ => 0x00#8

/-- MEM_RESET: what a storage byte that nothing has written reads as. DESIGN CHOICE: the spec leaves it open and names
this simulation default (D18), log 4. It is also what an unlisted byte inside the image's length reads as (log 24). -/
def Params.unlistedByte : Byte := 0x00#8

/-- CUNI_HONOURS_BREAKPOINTS, default false (rule R6, D25, C8), log 19. -/
def Params.cuniHonoursBreakpoints : Bool := false

end Sys2Proof.Machine
end

