-- ==== Sys2Proof/Machine/Memory.lean ====
section
/-! DEFINITION. Memory as plain data: a list of (address, byte) cells in one canonical form, with its read and write. -/

namespace Sys2Proof.Machine

/-- A memory: cells at strictly rising addresses, none equal to what an unlisted address reads as. -/
abbrev Memory := List Host.Cell

/-- The byte at an address; an unlisted address reads as `Params.unlistedByte`. -/
def Memory.read : Memory → Nat → Byte
  | [], _ => Params.unlistedByte
  | (k, v) :: m, a => if k = a then v else Memory.read m a

/-- Put a cell in front, unless it would list what an unlisted address reads as. -/
def Memory.put (a : Nat) (v : Byte) (m : Memory) : Memory :=
  if v = Params.unlistedByte then m else (a, v) :: m

/-- Write one byte, keeping the canonical form. -/
def Memory.write : Memory → Nat → Byte → Memory
  | [], a, v => Memory.put a v []
  | (k, x) :: m, a, v =>
    if a < k then Memory.put a v ((k, x) :: m)
    else if a = k then Memory.put a v m
    else (k, x) :: Memory.write m a v

/-- The canonical form from a lower bound on. -/
def Memory.wfFrom : Nat → Memory → Bool
  | _, [] => true
  | lo, (k, v) :: m => decide (lo ≤ k) && decide (v ≠ Params.unlistedByte) && Memory.wfFrom (k + 1) m

/-- The canonical form: strictly rising addresses, no cell that lists the unlisted value. -/
def Memory.wf (m : Memory) : Bool := Memory.wfFrom 0 m

/-- Every listed address satisfies `p`. -/
def Memory.keysIn (p : Nat → Bool) (m : Memory) : Bool := m.all fun c => p c.1

end Sys2Proof.Machine
end

