-- ==== Sys2Proof/Machine/State.lean ====
section
/-! DEFINITION. The state of boyo CORE as plain data (10_state.md), its faults and refusals, and the state after reset. -/

namespace Sys2Proof.Machine

/-! ## The Register Bank (rule R20) -/

/-- The ten cells of rule R20. `f` keeps its low four bits zero: every write goes through `RegBank.set` (rule R24). -/
structure RegBank where
  a  : Byte
  b  : Byte
  c  : Byte
  d  : Byte
  e  : Byte
  f  : Byte
  h  : Byte
  l  : Byte
  pc : Word
  sp : Word
  deriving DecidableEq, Repr

/-! ## The InstructionState (rules R34, R36) -/

/-- The instruction in flight with its M-cycle counter and its two operand latches. `instr = none` is the sentinel
`NONE` of rule R33, "the engine's power-on state". -/
structure InstructionState where
  instr   : Option Instr
  counter : Nat
  op1     : Byte
  op2     : Byte
  deriving DecidableEq, Repr

/-- The power-on InstructionState `(NONE, 0, 0x00, 0x00)` (rule R46). -/
def InstructionState.powerOn : InstructionState := { instr := none, counter := 0, op1 := 0x00#8, op2 := 0x00#8 }

/-! ## The backing image (rule R78) -/

/-- `IMAGE`, a byte sequence of length `len`; byte `i < len` is `cells.read i`. Held sparsely so that a 32768-byte
image can be written out (log 24). -/
structure Image where
  len   : Nat
  cells : Memory
  deriving DecidableEq, Repr

/-! ## Faults and refusals (rules R10, R260 to R268) -/

/-- The engine's faults, with the information each records (rule R268). All are the spec's own, so safe. -/
inductive Fault where
  /-- The opcode fetch read a byte that DECODE does not recognize (rule R262). Raised by `fetch` only. Safe. -/
  | invalidOpcode (byte : Byte) (addr : Word)
  /-- A read in an unmapped gap (rule R263). Raised by `memRead`: opcode fetch and operand reads. Safe. -/
  | unreadable (addr : Word)
  /-- A write in a ROM region or in the echo (rule R264). Raised by `memWrite`: `LD (HL),r`. Safe. -/
  | readOnly (addr : Word)
  /-- A write in an unmapped gap (rule R265). Raised by `memWrite`: `LD (HL),r`. Safe. -/
  | unwritable (addr : Word)
  /-- An image read of more than four bytes (rule R267). The core never raises it: it reads one byte. Safe. -/
  | countTooHigh (addr : Word)
  /-- A read at a ROM address beyond the image (rule R266). Raised by `romRead`. Safe. -/
  | outOfBounds (addr : Word)
  deriving DecidableEq, Repr

/-- Outcomes of a step that are neither a next state nor a fault. -/
inductive Refusal where
  /-- An instruction without a meaning yet. No arm of `exec` answers it any more. Safe. -/
  | notModelled (mnemonic : String)
  /-- The outcome `NoImage` of `cycle()` (rules R142, R260): no image is attached, zero cycles were performed and
  nothing changed; the caller may attach one and call again. Raised by `cycle`; safe (log 8). -/
  | noImage
  deriving DecidableEq, Repr

/-! ## The Debugger Control Layer (rules R40 to R42, R155, R213, R243) -/

/-- A line of text, without its line terminator (rule R211). -/
abbrev Line := List Char

/-- Why the debugger terminated (rule R242). -/
inductive StopReason where
  | exitRequested
  | fault (f : Fault)
  deriving DecidableEq, Repr

/-- The debugger's control state `dbg` (rule R41). -/
inductive DbgState where
  | idle
  | runContinue
  | runCuni
  | terminated (why : StopReason)
  deriving DecidableEq, Repr

/-- The two drivers of rule R318. -/
inductive Driver where
  | frameLoop
  | debugger
  deriving DecidableEq, Repr

/-- The control state of the frame loop: it calls `cycle()` "again and again for ever", and a fault is fatal to it
(rules R274, R318; log 46). -/
inductive FrameState where
  | running
  | terminated (f : Fault)
  deriving DecidableEq, Repr

/-- The three kinds of parse error (rule R213). -/
inductive ParseError where
  | unknownCommand
  | wrongArity
  | badAddress
  deriving DecidableEq, Repr

/-- What `peek()` returns (rule R155). -/
inductive Peek where
  | noImage
  | instr (is : InstructionState)
  | raw (byte : Byte) (addr : Word)
  | fault (f : Fault)
  deriving DecidableEq, Repr

/-- One thing the debugger prints. Only `text` has a wording the spec fixes (rule R243, U12); the others are named and
not worded (log 22). -/
inductive Output where
  /-- A line whose format rules R222 and R228 fix. -/
  | text (line : Line)
  /-- A line of the `history` command (rule R229). -/
  | historyLine (line : Line)
  /-- The message of a parse error, distinct for each kind (rule R213). -/
  | parseError (e : ParseError)
  /-- A fault report with its address, and byte for InvalidOpcode (rules R238, R318). -/
  | fault (f : Fault)
  /-- The report of a missing image (rule R239). -/
  | noImage
  /-- The undecodable byte that stopped `continue-until-not-impl` (rule R224). -/
  | raw (byte : Byte) (addr : Word)
  /-- The display of `next` (rule R226). -/
  | peeked (p : Peek)
  /-- The static usage text (rule R230). -/
  | help
  deriving DecidableEq, Repr

/-! ## The whole state -/

/-- Everything the spec gives the machine (INVENTORY.md, heading State). -/
structure State where
  /-- The Register Bank (rule R20). -/
  bank : RegBank
  /-- The InstructionState (rule R34). -/
  is : InstructionState
  /-- The storage behind the storage-backed regions (rules R43, R70), keyed by address. -/
  mem : Memory
  /-- The backing image: absent, or a byte sequence (rules R6, R142). -/
  image : Option Image
  /-- Which driver calls `cycle()` (rule R318). -/
  driver : Driver
  /-- The frame loop's control state (rule R318). -/
  frame : FrameState
  /-- The debugger's control state (rule R41). -/
  dbg : DbgState
  /-- The breakpoint set in insertion order (rule R40). -/
  bp : List Word
  /-- The command history, oldest first (rule R42). -/
  hist : List Line
  /-- The output `exit_requested` (rule R231). -/
  exitRequested : Bool
  /-- The model's own field: lines typed and not yet read (log 20). -/
  input : List Line
  /-- The model's own field: everything either driver has printed, oldest first (log 20). -/
  out : List Output
  deriving DecidableEq, Repr

/-- The reset state for any REG_RESET and MEM_RESET and any image and driver (rules R46, R300): the parameters the spec
leaves open are arguments. F's low four bits are zero whatever REG_RESET says. -/
def State.resetWith (regs : Reg8 → Byte) (mem : Memory) (image : Option Image) (driver : Driver) : State where
  bank :=
    { a := regs .A, b := regs .B, c := regs .C, d := regs .D, e := regs .E, f := maskF (regs .F), h := regs .H,
      l := regs .L, pc := Params.pcReset, sp := Params.spReset }
  is := .powerOn
  mem := mem
  image := image
  driver := driver
  frame := .running
  dbg := .idle
  bp := []
  hist := []
  exitRequested := false
  input := []
  out := []

/-- The machine right after reset, with the simulation defaults (log 3, 4), no image (log 5) and the frame loop as the
driver (log 6). -/
def State.reset : State := State.resetWith Params.regReset [] none .frameLoop

end Sys2Proof.Machine
end

