-- ==== Sys2Proof/Machine/Command.lean ====
section
/-! DEFINITION. Command input and parsing (rules R211 to R214): tokens, keywords, arities, hexadecimal addresses. -/

namespace Sys2Proof.Machine

/-- Put a character in front of the first token. -/
def consToFirst (ch : Char) : List Line → List Line
  | [] => [[ch]]
  | t :: ts => (ch :: t) :: ts

/-- Split a line at every single space character; empty tokens count (rule R211, D29). -/
def splitSpaces : Line → List Line
  | [] => [[]]
  | ch :: rest => if ch = ' ' then [] :: splitSpaces rest else consToFirst ch (splitSpaces rest)

/-- The eleven keywords (rule R212). -/
inductive Keyword where
  | breakAdd | breakRemove | breakList | continue_ | continueUntilNotImpl | step | next | registers | history | help
  | exit
  deriving DecidableEq, Repr

/-- The spelling of each keyword (rule R212). -/
def Keyword.word : Keyword → Line
  | .breakAdd => "break-add".toList
  | .breakRemove => "break-remove".toList
  | .breakList => "break-list".toList
  | .continue_ => "continue".toList
  | .continueUntilNotImpl => "continue-until-not-impl".toList
  | .step => "step".toList
  | .next => "next".toList
  | .registers => "registers".toList
  | .history => "history".toList
  | .help => "help".toList
  | .exit => "exit".toList

/-- The keywords, in the order of rule R212. -/
def Keyword.all : List Keyword :=
  [.breakAdd, .breakRemove, .breakList, .continue_, .continueUntilNotImpl, .step, .next, .registers, .history, .help,
    .exit]

/-- The arity, which counts the keyword (rule R212). -/
def Keyword.arity : Keyword → Nat
  | .breakAdd => 2
  | .breakRemove => 2
  | .breakList | .continue_ | .continueUntilNotImpl | .step | .next | .registers | .history | .help | .exit => 1

/-- Matching is "case-sensitive, exact keyword match" (rule R211). -/
def Keyword.ofToken (tok : Line) : Option Keyword := Keyword.all.find? fun k => decide (k.word = tok)

/-- A parsed command (rule R212). -/
inductive Command where
  | breakAdd (a : Word)
  | breakRemove (a : Word)
  | breakList
  | continue_
  | continueUntilNotImpl
  | step
  | next
  | registers
  | history
  | help
  | exit
  deriving DecidableEq, Repr

/-- The value of a hexadecimal digit, in either case (rule R214). -/
def hexValue (ch : Char) : Option Nat :=
  if '0' ≤ ch ∧ ch ≤ '9' then some (ch.toNat - 48)
  else if 'A' ≤ ch ∧ ch ≤ 'F' then some (ch.toNat - 55)
  else if 'a' ≤ ch ∧ ch ≤ 'f' then some (ch.toNat - 87)
  else none

/-- The value of a base-16 numeral, most significant digit first, after `acc`; none at a character that is no digit. -/
def hexNumeral : Nat → Line → Option Nat
  | acc, [] => some acc
  | acc, ch :: rest =>
    match hexValue ch with
    | none => none
    | some d => hexNumeral (acc * 16 + d) rest

/-- Take off an optional leading `0x` (rule R214). -/
def dropHexMark : Line → Line
  | '0' :: 'x' :: rest => rest
  | tok => tok

/-- `ParseHex(tok)` (rule R214, D28). -/
def parseHex (tok : Line) : Option Word :=
  match dropHexMark tok with
  | [] => none
  | ch :: rest =>
    match hexNumeral 0 (ch :: rest) with
    | none => none
    | some v => if v > 0xFFFF then none else some (BitVec.ofNat 16 v)

/-- The command of a keyword whose arity is met: the address token is parsed last (rule R213). -/
def Keyword.command (k : Keyword) (args : List Line) : Except ParseError Command :=
  match k with
  | .breakAdd => ((args.head?.bind parseHex).map Command.breakAdd).elim (.error .badAddress) .ok
  | .breakRemove => ((args.head?.bind parseHex).map Command.breakRemove).elim (.error .badAddress) .ok
  | .breakList => .ok .breakList
  | .continue_ => .ok .continue_
  | .continueUntilNotImpl => .ok .continueUntilNotImpl
  | .step => .ok .step
  | .next => .ok .next
  | .registers => .ok .registers
  | .history => .ok .history
  | .help => .ok .help
  | .exit => .ok .exit

/-- Parse the tokens of a line: keyword, then arity, then address (rule R213, D29). -/
def parseTokens : List Line → Except ParseError Command
  | [] => .error .unknownCommand
  | tok :: args =>
    match Keyword.ofToken tok with
    | none => .error .unknownCommand
    | some k => if args.length + 1 = k.arity then k.command args else .error .wrongArity

/-- Parse a raw input line (rules R211, R213). -/
def parseLine (line : Line) : Except ParseError Command := parseTokens (splitSpaces line)

end Sys2Proof.Machine
end

