-- ==== Sys2Proof/Machine/Operands.lean ====
section
/-! DEFINITION. Every operand form: the 8-bit registers (rules R8, R21, R24), the 16-bit pair views (rules R26, R27) and
the registers an instruction can name (rule R115). Immediate operands are read by `fetchOperand` of Ops.lean. -/

namespace Sys2Proof.Machine

/-- `x[r]` (rule R8). -/
def RegBank.get (b : RegBank) : Reg8 → Byte
  | .A => b.a
  | .B => b.b
  | .C => b.c
  | .D => b.d
  | .E => b.e
  | .F => b.f
  | .H => b.h
  | .L => b.l

/-- `x[r] <- v` (rule R8); a write to F is masked (rule R24). -/
def RegBank.set (b : RegBank) (r : Reg8) (v : Byte) : RegBank :=
  match r with
  | .A => { b with a := v }
  | .B => { b with b := v }
  | .C => { b with c := v }
  | .D => { b with d := v }
  | .E => { b with e := v }
  | .F => { b with f := maskF v }
  | .H => { b with h := v }
  | .L => { b with l := v }

/-- The four composite registers (rule R26). -/
inductive Pair where
  | AF | BC | DE | HL
  deriving DecidableEq, Repr

/-- The first register of a pair, its high byte (rule R26). -/
def Pair.high : Pair → Reg8
  | .AF => .A
  | .BC => .B
  | .DE => .D
  | .HL => .H

/-- The second register of a pair, its low byte (rule R26). -/
def Pair.low : Pair → Reg8
  | .AF => .F
  | .BC => .C
  | .DE => .E
  | .HL => .L

/-- `xx[p]` (rules R8, R26). -/
def RegBank.getPair (b : RegBank) (p : Pair) : Word := joinBytes (b.get p.high) (b.get p.low)

/-- `xx[p] <- v` (rules R8, R27): "mutating a pair writes through to its two halves". -/
def RegBank.setPair (b : RegBank) (p : Pair) (v : Word) : RegBank :=
  (b.set p.high (hiByte v)).set p.low (loByte v)

end Sys2Proof.Machine

namespace Sys2Proof

/-- The register of the bank an operand register names (rule R115). -/
def OpReg.reg : OpReg → Reg8
  | .B => .B
  | .C => .C
  | .D => .D
  | .E => .E
  | .H => .H
  | .L => .L
  | .A => .A

end Sys2Proof
end

