-- ==== Sys2Proof/Machine/Flags.lean ====
section
/-! DEFINITION. Flag-bit packing (rules R23, R25). No instruction of the default decode table reads or writes a flag
(rule R25), so there is no flag computation; this is the bank's own flag interface. -/

namespace Sys2Proof.Machine

/-- The four condition flags (rule R23). -/
inductive Flag where
  | Z | N | H | C
  deriving DecidableEq, Repr

/-- The bit of F a flag stands at (rule R23). PRESUMED: the order is the source's, the positions the family's (D4),
log 25. -/
def Flag.bit : Flag → Nat
  | .Z => 7
  | .N => 6
  | .H => 5
  | .C => 4

/-- The byte with a flag's bit alone set. -/
def Flag.mask (g : Flag) : Byte := 1#8 <<< g.bit

/-- `flag(g)` (rule R25). -/
def RegBank.flag (b : RegBank) (g : Flag) : Bool := b.f.getLsbD g.bit

/-- "Setting a flag to bit `b` rewrites that one bit of F and leaves the other seven bits unchanged" (rule R25). -/
def RegBank.setFlag (b : RegBank) (g : Flag) (v : Bool) : RegBank :=
  b.set .F (if v then b.f ||| g.mask else b.f &&& ~~~ g.mask)

end Sys2Proof.Machine
end

