-- ==== Sys2Proof/Machine/Regions.lean ====
section
/-! DEFINITION. The address space: region kinds and their policies (rules R61, R64, R65), the default REGION_MAP
(rule R62), BACKING (rule R70) and normalisation (rule R66). -/

namespace Sys2Proof.Machine

/-- The eleven region kinds (rules R61, R62). -/
inductive Region where
  | ROM0 | ROMX | VRAM | EXTRAM | WRAM | ECHO | OAM | GAP | IO | HRAM | IE
  deriving DecidableEq, Repr

/-- One row of the region map: a contiguous range of one kind, `first` and `last` inclusive (rules R62, R63). -/
structure RegionRange where
  kind  : Region
  first : Nat
  last  : Nat
  deriving DecidableEq, Repr

/-- The default REGION_MAP (rule R62). PRESUMED: the boundaries are the family's (D15), log 9. -/
def regionMap : List RegionRange :=
  [ ⟨.ROM0,   0x0000, 0x3FFF⟩, ⟨.ROMX,   0x4000, 0x7FFF⟩, ⟨.VRAM,   0x8000, 0x9FFF⟩,
    ⟨.EXTRAM, 0xA000, 0xBFFF⟩, ⟨.WRAM,   0xC000, 0xDFFF⟩, ⟨.ECHO,   0xE000, 0xFDFF⟩,
    ⟨.OAM,    0xFE00, 0xFE9F⟩, ⟨.GAP,    0xFEA0, 0xFEFF⟩, ⟨.IO,     0xFF00, 0xFF7F⟩,
    ⟨.HRAM,   0xFF80, 0xFFFE⟩, ⟨.IE,     0xFFFF, 0xFFFF⟩ ]

/-- An address lies in a range. -/
def RegionRange.holds (r : RegionRange) (a : Nat) : Bool := decide (r.first ≤ a) && decide (a ≤ r.last)

/-- The kind of the first range of a map that holds an address. An address outside every range would be a gap; a map
that keeps rule R63 has none. -/
def classifyIn : List RegionRange → Nat → Region
  | [], _ => .GAP
  | r :: rs, a => if r.holds a then r.kind else classifyIn rs a

/-- `classify(a)` (rule R61), with the default map. -/
def classify (a : Word) : Region := classifyIn regionMap a.toNat

/-- What rule R63 asks of a map, from a given first address on: the ranges are contiguous, in ascending order and
without overlap or gap up to 0xFFFF. -/
def RegionMap.coversFrom : Nat → List RegionRange → Bool
  | lo, [] => lo == 0x10000
  | lo, r :: rs => r.first == lo && decide (r.first ≤ r.last) && RegionMap.coversFrom (r.last + 1) rs

/-- The read policy of a kind (rule R64). -/
inductive ReadPolicy where
  | readable | unreadable
  deriving DecidableEq, Repr

/-- The write policy of a kind (rule R65). -/
inductive WritePolicy where
  | writable | readOnly | unwritable
  deriving DecidableEq, Repr

/-- "fails with `Unreadable` for unmapped gaps" (rule R64). -/
def readPolicy : Region → ReadPolicy
  | .GAP => .unreadable
  | .ROM0 | .ROMX | .VRAM | .EXTRAM | .WRAM | .ECHO | .OAM | .IO | .HRAM | .IE => .readable

/-- "fails with `ReadOnly` for ROM and echo regions and `Unwritable` for gaps" (rule R65). -/
def writePolicy : Region → WritePolicy
  | .GAP => .unwritable
  | .ROM0 | .ROMX | .ECHO => .readOnly
  | .VRAM | .EXTRAM | .WRAM | .OAM | .IO | .HRAM | .IE => .writable

/-- What stands behind a region (rule R70). -/
inductive Backing where
  /-- The external image (rule R79). -/
  | image
  /-- A byte array of its own, with plain memory behaviour. -/
  | storage
  /-- Reads as zero, discards writes (rule R74). -/
  | placeholder
  /-- Working RAM's bytes (rule R71). -/
  | mirror
  /-- Nothing. -/
  | nothing
  deriving DecidableEq, Repr

/-- BACKING, its default (rule R70). DESIGN CHOICE of the spec (D16), log 10. -/
def backing : Region → Backing
  | .ROM0 | .ROMX => .image
  | .WRAM | .VRAM | .OAM | .IO | .HRAM | .IE => .storage
  | .EXTRAM => .placeholder
  | .ECHO => .mirror
  | .GAP => .nothing

/-- The base offset of a kind (rule R62; the gap has none and is given 0). -/
def regionBase : Region → Nat
  | .ROM0 | .ROMX | .GAP => 0x0000
  | .VRAM => 0x8000
  | .EXTRAM => 0xA000
  | .WRAM => 0xC000
  | .ECHO => 0xE000
  | .OAM => 0xFE00
  | .IO => 0xFF00
  | .HRAM => 0xFF80
  | .IE => 0xFFFF

/-- The region-local index of an address (rule R66). -/
def localIndex (a : Word) : Nat := a.toNat - regionBase (classify a)

/-- Where a byte array stands in `State.mem`: index `i` of a region's array is held at address base + i. -/
def storageKey (r : Region) (i : Nat) : Nat := regionBase r + i

/-- The cell of `State.mem` behind an address, if it has one: its own array's, or working RAM's for the echo
(rules R66, R70, R71). -/
def storageCell (a : Word) : Option Nat :=
  match backing (classify a) with
  | .storage => some (storageKey (classify a) (localIndex a))
  | .mirror => some (storageKey .WRAM (localIndex a))
  | .image | .placeholder | .nothing => none

end Sys2Proof.Machine
end

