-- ==== Sys2Proof/Machine/Ops.lean ====
section
/-! DEFINITION. The named operations over the InstructionState, registers and memory that the meanings and the engine
share: updates, MemRead and MemWrite (rules R72, R73), ImageRead (rule R78), raising a fault (rule R10), FetchOperand
(rule R158). -/

namespace Sys2Proof.Machine

/-! ## The InstructionState (rules R34 to R38) -/

/-- The tag `is.instr` (rule R34). -/
def InstructionState.tag (x : InstructionState) : Tag :=
  match x.instr with
  | none => .NONE
  | some i => i.tag

/-- `CYCLES(is.instr)` (rule R120). -/
def InstructionState.cycles (x : InstructionState) : Nat := x.tag.cycles

/-- `retired(is)` (rule R37): the counter has reached the declared total. -/
def InstructionState.retired (x : InstructionState) : Bool := x.counter == x.cycles

/-- The InstructionState a fetch installs: counter 0, latches cleared (rules R38, R145; the clearing is D6, log 16). -/
def InstructionState.fresh (i : Instr) : InstructionState :=
  { instr := some i, counter := 0, op1 := 0x00#8, op2 := 0x00#8 }

/-! ## Updates of the state -/

/-- `pc <- target` (rule R8). -/
def State.setPc (s : State) (target : Word) : State := { s with bank := { s.bank with pc := target } }

/-- `pc <- (pc + 1) mod 65536` (rule R29; the wrap is D14, log 15). -/
def State.advancePc (s : State) : State := s.setPc (s.bank.pc + 1#16)

/-- `x[r] <- v` (rule R8). -/
def State.setReg (s : State) (r : Reg8) (v : Byte) : State := { s with bank := s.bank.set r v }

/-- `is.op1 <- v`. -/
def State.setOp1 (s : State) (v : Byte) : State := { s with is := { s.is with op1 := v } }

/-- `is.op2 <- v`. -/
def State.setOp2 (s : State) (v : Byte) : State := { s with is := { s.is with op2 := v } }

/-- Install a fresh InstructionState (rule R145). -/
def State.install (s : State) (i : Instr) : State := { s with is := .fresh i }

/-- "Increment the counter by 1" (rule R146). -/
def State.tick (s : State) : State := { s with is := { s.is with counter := s.is.counter + 1 } }

/-- Write one cell of the storage. -/
def State.writeCell (s : State) (k : Nat) (v : Byte) : State := { s with mem := s.mem.write k v }

/-! ## Faults (rules R10, R150, R272, R274) -/

/-- `raise f` (rule R10), the one way an exception is taken: "a fault saves nothing, changes no mode, touches no stack
and transfers control nowhere" (rule R272), and nothing of the faulting call is kept (rule R150), so the outcome carries
the fault alone and the state stays the caller's. There is no return from it (rule R274). -/
def raise (f : Fault) : Host.Outcome State Fault Refusal := .fault f

/-! ## The byte-range read capability (rules R78, R79) -/

/-- The two failures of `ImageRead` (rule R78). -/
inductive ImageFault where
  | countTooHigh
  | outOfBounds
  deriving DecidableEq, Repr

/-- Byte `i` of the image. -/
def Image.byteAt (img : Image) (i : Nat) : Byte := img.cells.read i

/-- `count` bytes as a big-endian unsigned integer: the first byte most significant (rule R78). -/
def Image.bigEndian (img : Image) (addr : Nat) : Nat → Nat
  | 0 => 0
  | n + 1 => img.bigEndian addr n * 256 + (img.byteAt (addr + n)).toNat

/-- `ImageRead(address, count)` (rule R78): the count is checked first (D40). -/
def imageRead (img : Image) (addr count : Nat) : Except ImageFault Nat :=
  if count > 4 then .error .countTooHigh
  else if addr + count > img.len then .error .outOfBounds
  else .ok (img.bigEndian addr count)

/-- A byte-range fault wrapped with the address (rule R79). -/
def ImageFault.wrap (a : Word) : ImageFault → Fault
  | .countTooHigh => .countTooHigh a
  | .outOfBounds => .outOfBounds a

/-- `RomRead(a)`: `ImageRead(a, 1)`, its faults wrapped with the address (rule R79). With no image the engine never gets
here (rule R142); the model then answers `OutOfBounds`, as of an image of length 0 (log 17). -/
def romRead (s : State) (a : Word) : Except Fault Byte :=
  match s.image with
  | none => .error (.outOfBounds a)
  | some img =>
    match imageRead img a.toNat 1 with
    | .error e => .error (e.wrap a)
    | .ok v => .ok (BitVec.ofNat 8 v)

/-! ## The memory primitives (rules R9, R72, R73) -/

/-- `MemRead(a, 1)` (rule R72): the region's read policy first, then what stands behind the region. -/
def memRead (s : State) (a : Word) : Except Fault Byte :=
  match readPolicy (classify a) with
  | .unreadable => .error (.unreadable a)
  | .readable =>
    match backing (classify a) with
    | .image => romRead s a
    | .placeholder => .ok 0x00#8
    | .mirror => .ok (s.mem.read (storageKey .WRAM (localIndex a)))
    | .storage => .ok (s.mem.read (storageKey (classify a) (localIndex a)))
    | .nothing => .error (.unreadable a)

/-- `MemWrite(a, 1, v)` (rule R73): the region's write policy first; a placeholder accepts and discards (rule R74). A
writable kind that is backed by no array of its own stores nothing; with the default BACKING only EXTRAM is one. -/
def memWrite (s : State) (a : Word) (v : Byte) : Except Fault State :=
  match writePolicy (classify a) with
  | .unwritable => .error (.unwritable a)
  | .readOnly => .error (.readOnly a)
  | .writable =>
    match backing (classify a) with
    | .storage => .ok (s.writeCell (storageKey (classify a) (localIndex a)) v)
    | .image | .placeholder | .mirror | .nothing => .ok s

/-- The named arrays of rule R70: byte `i` of a region's array. -/
def State.arrayByte (s : State) (r : Region) (i : Nat) : Byte := s.mem.read (storageKey r i)

/-! ## Operand reads and the store (rules R158, R180 to R182, R201) -/

/-- `FetchOperand()` (rule R158): read at `pc`, then advance `pc` by one (D43). -/
def fetchOperand (s : State) : Except Fault (Byte × State) :=
  match memRead s s.bank.pc with
  | .error f => .error f
  | .ok v => .ok (v, s.advancePc)

/-- `is.op1 <- FetchOperand()` (rule R147). -/
def latchOp1 (s : State) : Host.Outcome State Fault Refusal :=
  match fetchOperand s with
  | .error f => raise f
  | .ok (v, t) => .next (t.setOp1 v)

/-- `is.op2 <- FetchOperand()` (rule R147). -/
def latchOp2 (s : State) : Host.Outcome State Fault Refusal :=
  match fetchOperand s with
  | .error f => raise f
  | .ok (v, t) => .next (t.setOp2 v)

/-- `MemWrite(a, 1, v)` as a dispatch step (rule R147). -/
def storeByte (a : Word) (v : Byte) (s : State) : Host.Outcome State Fault Refusal :=
  match memWrite s a v with
  | .error f => raise f
  | .ok t => .next t

end Sys2Proof.Machine
end

