-- ==== Sys2Proof/Machine/Control.lean ====
section
/-! DEFINITION. Meanings of `NOP` (rule R200) and `JP nn` (rule R201): one M-cycle of the instruction, the cycle being
`is.counter` after the increment of rule R146. -/

namespace Sys2Proof.Machine

/-- `NOP` (rule R200): no side effect. -/
def execNop (s : State) : Host.Outcome State Fault Refusal := .next s

/-- `JP nn` (rule R201): operand bytes on cycles 2 and 3, the commit of `pc` on cycle 4. Cycle 1 has no side effect, and
pairs outside the dispatch table have none either (rule R148). -/
def execJpNn (s : State) : Host.Outcome State Fault Refusal :=
  match s.is.counter with
  | 2 => latchOp1 s
  | 3 => latchOp2 s
  | 4 => .next (s.setPc (joinBytes s.is.op1 s.is.op2))
  | _ => .next s

end Sys2Proof.Machine
end

