-- ==== Sys2Proof/Machine/Loads.lean ====
section
/-! DEFINITION. Meanings of the load family `LD r,n` (rule R180): one M-cycle of the instruction, the cycle being
`is.counter` after the increment of rule R146. -/

namespace Sys2Proof.Machine

/-- `LD r,n` (rule R180): the immediate is read into `op1` on cycle 1 and written to the register on cycle 2. Pairs
outside the dispatch table have no effect (rule R148). -/
def loadImmediate (dst : OpReg) (s : State) : Host.Outcome State Fault Refusal :=
  match s.is.counter with
  | 1 => latchOp1 s
  | 2 => .next (s.setReg dst.reg s.is.op1)
  | _ => .next s

/-- `LD B,n` (R180). -/
def execLd_B_n (s : State) : Host.Outcome State Fault Refusal := loadImmediate .B s

/-- `LD C,n` (R180). -/
def execLd_C_n (s : State) : Host.Outcome State Fault Refusal := loadImmediate .C s

/-- `LD D,n` (R180). -/
def execLd_D_n (s : State) : Host.Outcome State Fault Refusal := loadImmediate .D s

/-- `LD E,n` (R180). -/
def execLd_E_n (s : State) : Host.Outcome State Fault Refusal := loadImmediate .E s

/-- `LD H,n` (R180). -/
def execLd_H_n (s : State) : Host.Outcome State Fault Refusal := loadImmediate .H s

/-- `LD L,n` (R180). -/
def execLd_L_n (s : State) : Host.Outcome State Fault Refusal := loadImmediate .L s

/-- `LD A,n` (R180). -/
def execLd_A_n (s : State) : Host.Outcome State Fault Refusal := loadImmediate .A s

end Sys2Proof.Machine
end

