-- ==== Sys2Proof/Machine/Moves.lean ====
section
/-! DEFINITION. Meanings of the move family `LD r,r'` (rule R181): one M-cycle of the instruction, the cycle being
`is.counter` after the increment of rule R146. -/

namespace Sys2Proof.Machine

/-- `LD r,r'` (rule R181): the register is copied on cycle 1; the source is read before the destination is written.
Pairs outside the dispatch table have no effect (rule R148). -/
def moveRegister (dst src : OpReg) (s : State) : Host.Outcome State Fault Refusal :=
  match s.is.counter with
  | 1 => .next (s.setReg dst.reg (s.bank.get src.reg))
  | _ => .next s

/-- `LD B,B` (R181). -/
def execLd_B_B (s : State) : Host.Outcome State Fault Refusal := moveRegister .B .B s

/-- `LD B,C` (R181). -/
def execLd_B_C (s : State) : Host.Outcome State Fault Refusal := moveRegister .B .C s

/-- `LD B,D` (R181). -/
def execLd_B_D (s : State) : Host.Outcome State Fault Refusal := moveRegister .B .D s

/-- `LD B,E` (R181). -/
def execLd_B_E (s : State) : Host.Outcome State Fault Refusal := moveRegister .B .E s

/-- `LD B,H` (R181). -/
def execLd_B_H (s : State) : Host.Outcome State Fault Refusal := moveRegister .B .H s

/-- `LD B,L` (R181). -/
def execLd_B_L (s : State) : Host.Outcome State Fault Refusal := moveRegister .B .L s

/-- `LD B,A` (R181). -/
def execLd_B_A (s : State) : Host.Outcome State Fault Refusal := moveRegister .B .A s

/-- `LD C,B` (R181). -/
def execLd_C_B (s : State) : Host.Outcome State Fault Refusal := moveRegister .C .B s

/-- `LD C,C` (R181). -/
def execLd_C_C (s : State) : Host.Outcome State Fault Refusal := moveRegister .C .C s

/-- `LD C,D` (R181). -/
def execLd_C_D (s : State) : Host.Outcome State Fault Refusal := moveRegister .C .D s

/-- `LD C,E` (R181). -/
def execLd_C_E (s : State) : Host.Outcome State Fault Refusal := moveRegister .C .E s

/-- `LD C,H` (R181). -/
def execLd_C_H (s : State) : Host.Outcome State Fault Refusal := moveRegister .C .H s

/-- `LD C,L` (R181). -/
def execLd_C_L (s : State) : Host.Outcome State Fault Refusal := moveRegister .C .L s

/-- `LD C,A` (R181). -/
def execLd_C_A (s : State) : Host.Outcome State Fault Refusal := moveRegister .C .A s

/-- `LD D,B` (R181). -/
def execLd_D_B (s : State) : Host.Outcome State Fault Refusal := moveRegister .D .B s

/-- `LD D,C` (R181). -/
def execLd_D_C (s : State) : Host.Outcome State Fault Refusal := moveRegister .D .C s

/-- `LD D,D` (R181). -/
def execLd_D_D (s : State) : Host.Outcome State Fault Refusal := moveRegister .D .D s

/-- `LD D,E` (R181). -/
def execLd_D_E (s : State) : Host.Outcome State Fault Refusal := moveRegister .D .E s

/-- `LD D,H` (R181). -/
def execLd_D_H (s : State) : Host.Outcome State Fault Refusal := moveRegister .D .H s

/-- `LD D,L` (R181). -/
def execLd_D_L (s : State) : Host.Outcome State Fault Refusal := moveRegister .D .L s

/-- `LD D,A` (R181). -/
def execLd_D_A (s : State) : Host.Outcome State Fault Refusal := moveRegister .D .A s

/-- `LD E,B` (R181). -/
def execLd_E_B (s : State) : Host.Outcome State Fault Refusal := moveRegister .E .B s

/-- `LD E,C` (R181). -/
def execLd_E_C (s : State) : Host.Outcome State Fault Refusal := moveRegister .E .C s

/-- `LD E,D` (R181). -/
def execLd_E_D (s : State) : Host.Outcome State Fault Refusal := moveRegister .E .D s

/-- `LD E,E` (R181). -/
def execLd_E_E (s : State) : Host.Outcome State Fault Refusal := moveRegister .E .E s

/-- `LD E,H` (R181). -/
def execLd_E_H (s : State) : Host.Outcome State Fault Refusal := moveRegister .E .H s

/-- `LD E,L` (R181). -/
def execLd_E_L (s : State) : Host.Outcome State Fault Refusal := moveRegister .E .L s

/-- `LD E,A` (R181). -/
def execLd_E_A (s : State) : Host.Outcome State Fault Refusal := moveRegister .E .A s

/-- `LD H,B` (R181). -/
def execLd_H_B (s : State) : Host.Outcome State Fault Refusal := moveRegister .H .B s

/-- `LD H,C` (R181). -/
def execLd_H_C (s : State) : Host.Outcome State Fault Refusal := moveRegister .H .C s

/-- `LD H,D` (R181). -/
def execLd_H_D (s : State) : Host.Outcome State Fault Refusal := moveRegister .H .D s

/-- `LD H,E` (R181). -/
def execLd_H_E (s : State) : Host.Outcome State Fault Refusal := moveRegister .H .E s

/-- `LD H,H` (R181). -/
def execLd_H_H (s : State) : Host.Outcome State Fault Refusal := moveRegister .H .H s

/-- `LD H,L` (R181). -/
def execLd_H_L (s : State) : Host.Outcome State Fault Refusal := moveRegister .H .L s

/-- `LD H,A` (R181). -/
def execLd_H_A (s : State) : Host.Outcome State Fault Refusal := moveRegister .H .A s

/-- `LD L,B` (R181). -/
def execLd_L_B (s : State) : Host.Outcome State Fault Refusal := moveRegister .L .B s

/-- `LD L,C` (R181). -/
def execLd_L_C (s : State) : Host.Outcome State Fault Refusal := moveRegister .L .C s

/-- `LD L,D` (R181). -/
def execLd_L_D (s : State) : Host.Outcome State Fault Refusal := moveRegister .L .D s

/-- `LD L,E` (R181). -/
def execLd_L_E (s : State) : Host.Outcome State Fault Refusal := moveRegister .L .E s

/-- `LD L,H` (R181). -/
def execLd_L_H (s : State) : Host.Outcome State Fault Refusal := moveRegister .L .H s

/-- `LD L,L` (R181). -/
def execLd_L_L (s : State) : Host.Outcome State Fault Refusal := moveRegister .L .L s

/-- `LD L,A` (R181). -/
def execLd_L_A (s : State) : Host.Outcome State Fault Refusal := moveRegister .L .A s

/-- `LD A,B` (R181). -/
def execLd_A_B (s : State) : Host.Outcome State Fault Refusal := moveRegister .A .B s

/-- `LD A,C` (R181). -/
def execLd_A_C (s : State) : Host.Outcome State Fault Refusal := moveRegister .A .C s

/-- `LD A,D` (R181). -/
def execLd_A_D (s : State) : Host.Outcome State Fault Refusal := moveRegister .A .D s

/-- `LD A,E` (R181). -/
def execLd_A_E (s : State) : Host.Outcome State Fault Refusal := moveRegister .A .E s

/-- `LD A,H` (R181). -/
def execLd_A_H (s : State) : Host.Outcome State Fault Refusal := moveRegister .A .H s

/-- `LD A,L` (R181). -/
def execLd_A_L (s : State) : Host.Outcome State Fault Refusal := moveRegister .A .L s

/-- `LD A,A` (R181). -/
def execLd_A_A (s : State) : Host.Outcome State Fault Refusal := moveRegister .A .A s

end Sys2Proof.Machine
end

