-- ==== Sys2Proof/Machine/Stores.lean ====
section
/-! DEFINITION. Meanings of the store family `LD (HL),r` (rule R182): one M-cycle of the instruction, the cycle being
`is.counter` after the increment of rule R146. -/

namespace Sys2Proof.Machine

/-- `LD (HL),r` (rule R182): nothing on cycle 1; on cycle 2 the register is stored at `xx[HL]`. The address and the
data are both read in cycle 2. Pairs outside the dispatch table have no effect (rule R148). -/
def storeAtHL (src : OpReg) (s : State) : Host.Outcome State Fault Refusal :=
  match s.is.counter with
  | 2 => storeByte (s.bank.getPair .HL) (s.bank.get src.reg) s
  | _ => .next s

/-- `LD (HL),B` (R182). -/
def execLd_atHL_B (s : State) : Host.Outcome State Fault Refusal := storeAtHL .B s

/-- `LD (HL),C` (R182). -/
def execLd_atHL_C (s : State) : Host.Outcome State Fault Refusal := storeAtHL .C s

/-- `LD (HL),D` (R182). -/
def execLd_atHL_D (s : State) : Host.Outcome State Fault Refusal := storeAtHL .D s

/-- `LD (HL),E` (R182). -/
def execLd_atHL_E (s : State) : Host.Outcome State Fault Refusal := storeAtHL .E s

/-- `LD (HL),H` (R182). -/
def execLd_atHL_H (s : State) : Host.Outcome State Fault Refusal := storeAtHL .H s

/-- `LD (HL),L` (R182). -/
def execLd_atHL_L (s : State) : Host.Outcome State Fault Refusal := storeAtHL .L s

/-- `LD (HL),A` (R182). -/
def execLd_atHL_A (s : State) : Host.Outcome State Fault Refusal := storeAtHL .A s

end Sys2Proof.Machine
end

