-- ==== Sys2Proof/Machine/Engine.lean ====
section
/-! DEFINITION. The Execution Engine (40_execution_engine.md): `cycle()`, one machine cycle, and `peek()`. -/

namespace Sys2Proof.Machine

/-- Step 1 of `cycle()` (rules R143, R144, R145): read the byte at `pc`, decode it, install the instruction and advance
`pc`. On a read fault or an Unrecognized byte nothing is kept (D12). -/
def fetch (s : State) : Except Fault State :=
  match memRead s s.bank.pc with
  | .error f => .error f
  | .ok b =>
    match decode b with
    | .unrecognized => .error (.invalidOpcode b s.bank.pc)
    | .recognized i => .ok (s.advancePc.install i)

/-- Steps 2 and 3 of `cycle()` (rules R146, R147): increment the counter and dispatch. The sentinel cannot stand here
after a fetch; it has no effect (rule R148, log 27). -/
def runCycle (s : State) : Host.Outcome State Fault Refusal :=
  match s.is.instr with
  | none => .next s.tick
  | some i => exec i s.tick

/-- `cycle()` (rule R141). `next` is `Done`, `fault` is `Fault`, and `NoImage` (rule R142) is the refusal of that name
(log 8). A fault carries no state: the state stays that before the call (rule R150). -/
def cycle (s : State) : Host.Outcome State Fault Refusal :=
  match s.image with
  | none => .refused .noImage
  | some _ =>
    if s.is.retired then
      match fetch s with
      | .error f => raise f
      | .ok t => runCycle t
    else runCycle s

/-- `peek()` (rule R155): what the next cycle would decode to. It answers a value and no state, so it changes nothing
(rule R156). -/
def peek (s : State) : Peek :=
  match s.image with
  | none => .noImage
  | some _ =>
    if s.is.retired then
      match memRead s s.bank.pc with
      | .error f => .fault f
      | .ok b =>
        match decode b with
        | .unrecognized => .raw b s.bank.pc
        | .recognized i => .instr (.fresh i)
    else .instr s.is

/-- The reference numbers of rule R268 (D20, log 26). -/
def outcomeCode : Host.Outcome State Fault Refusal → Nat
  | .next _ => 0
  | .refused _ => 1
  | .fault (.invalidOpcode _ _) => 2
  | .fault (.unreadable _) => 3
  | .fault (.outOfBounds _) => 4
  | .fault (.countTooHigh _) => 5
  | .fault (.readOnly _) => 6
  | .fault (.unwritable _) => 7

/-- `n` calls of `cycle()` one after the other, stopping at the first outcome that is not `Done`. -/
def cycles : Nat → State → Host.Outcome State Fault Refusal
  | 0, s => .next s
  | n + 1, s =>
    match cycle s with
    | .next t => cycles n t
    | .fault f => .fault f
    | .refused r => .refused r

end Sys2Proof.Machine
end

