-- ==== Sys2Proof/Machine/History.lean ====
section
/-! DEFINITION. The command history buffer (rules R42, R245 to R248). -/

namespace Sys2Proof.Machine

/-- The literal recall command `history`, which is never stored (rule R245). -/
def historyWord : Line := "history".toList

/-- Keep at most `cap` entries: one more is the oldest, and it is removed (rule R245). -/
def evictOldest (cap : Nat) (hist : List Line) : List Line :=
  if hist.length > cap then hist.drop 1 else hist

/-- `HistPush(line)` (rule R245), for a history of capacity `cap`. -/
def histPush (cap : Nat) (line : Line) (hist : List Line) : List Line :=
  if line = historyWord then hist
  else if hist.getLast? = some line then hist
  else evictOldest cap (hist ++ [line])

/-- `HistRecall(N)`: the N-th most recent entry, 1 the most recent (rule R247). Any other N has no result (U9, log 29). -/
def histRecall (hist : List Line) (n : Nat) : Option Line :=
  if n = 0 then none
  else if n ≤ hist.length then hist[hist.length - n]?
  else none

/-- No two adjacent entries are equal. -/
def noAdjacentRepeat : List Line → Bool
  | [] => true
  | [_] => true
  | x :: y :: rest => decide (x ≠ y) && noAdjacentRepeat (y :: rest)

/-- The invariants of `hist` (rule R246), for a capacity. -/
def histWf (cap : Nat) (hist : List Line) : Bool :=
  decide (hist.length ≤ cap) && decide (historyWord ∉ hist) && noAdjacentRepeat hist

/-- Push a line with HISTORY_CAPACITY (rule R216). -/
def State.pushHist (line : Line) (s : State) : State :=
  { s with hist := histPush Config.historyCapacity line s.hist }

end Sys2Proof.Machine
end

