-- ==== Sys2Proof/Machine/Debugger.lean ====
section
/-! DEFINITION. The Debugger Control Layer (45_debugger.md): its commands and its state machine (rule R240). It changes
engine state by calling `cycle()` only (rule R210). -/

namespace Sys2Proof.Machine

/-! ## Small operations -/

/-- Print some outputs after what has been printed (rule R243). -/
def State.print (outs : List Output) (s : State) : State := { s with out := s.out ++ outs }

/-- Set the control state (rule R41). -/
def State.setDbg (d : DbgState) (s : State) : State := { s with dbg := d }

/-- Set the breakpoint set (rule R40). -/
def State.setBp (bp : List Word) (s : State) : State := { s with bp := bp }

/-- Raise the output `exit_requested` (rule R231). -/
def State.raiseExit (s : State) : State := { s with exitRequested := true }

/-- Take the first pending line off the input (rule R211). -/
def State.dropInput (s : State) : State := { s with input := s.input.drop 1 }

/-- `break-add`: append the address if it is not there (rule R220). -/
def bpAdd (a : Word) (bp : List Word) : List Word := if a ∈ bp then bp else bp ++ [a]

/-- `break-remove`: remove the address, the order of the rest unchanged (rule R221). -/
def bpRemove (a : Word) (bp : List Word) : List Word := bp.filter fun x => decide (x ≠ a)

/-- The breakpoint test: "purely by equality against the current program-counter value" (rule R236). -/
def State.atBreakpoint (s : State) : Bool := decide (s.bank.pc ∈ s.bp)

/-! ## Displays -/

/-- The registers in display order, with their names (rule R228). -/
def displayOrder : List (Char × Reg8) :=
  [('A', .A), ('B', .B), ('C', .C), ('D', .D), ('E', .E), ('F', .F), ('H', .H), ('L', .L)]

/-- One line `name: 0xHH` (rule R228). -/
def registerLine (b : RegBank) (n : Char × Reg8) : Output := .text (n.1 :: ':' :: ' ' :: showByte (b.get n.2))

/-- The ten lines of `registers` (rule R228, D31). -/
def registerLines (b : RegBank) : List Output :=
  displayOrder.map (registerLine b) ++
    [.text ("PC: ".toList ++ showWord b.pc), .text ("SP: ".toList ++ showWord b.sp)]

/-- The lines of `break-list`: each address as `0xHHHH`, in insertion order (rule R222). -/
def breakpointLines (bp : List Word) : List Output := bp.map fun a => .text (showWord a)

/-- The lines of `history`, oldest first (rule R229, D32, log 44). -/
def historyLines (hist : List Line) : List Output := hist.map .historyLine

/-! ## Ends of a running command -/

/-- An unrecoverable fault: print it, terminate (rule R238), and push the line, as after any command (rule R216,
log 21). -/
def State.terminateOn (f : Fault) (line : Line) (s : State) : State :=
  ((s.print [.fault f]).setDbg (.terminated (.fault f))).pushHist line

/-- The command `exit`: terminate, raise `exit_requested` (rule R231), and push the line (rule R216, log 21). -/
def State.exitOn (line : Line) (s : State) : State :=
  ((s.setDbg (.terminated .exitRequested)).raiseExit).pushHist line

/-- A command ends and the debugger is idle again; the line is pushed last (rules R216, R240). -/
def State.finish (line : Line) (s : State) : State := (s.setDbg .idle).pushHist line

/-- `NoImage` inside a command: print it, stop the command (rule R239). -/
def State.finishNoImage (line : Line) (s : State) : State := (s.print [.noImage]).finish line

/-! ## The commands -/

/-- `step`: exactly one `cycle()` (rule R225). -/
def commandStep (line : Line) (s : State) : Host.Outcome State Fault Refusal :=
  match cycle s with
  | .next t => .next (t.finish line)
  | .fault f => .next (s.terminateOn f line)
  | .refused .noImage => .next (s.finishNoImage line)
  | .refused r => .refused r

/-- Execute a parsed command while Idle (rules R220 to R231, R240). The raw line is pushed after the effect and the
output (rule R216); the push itself discards the literal `history` (rule R245). -/
def runCommand (c : Command) (line : Line) (s : State) : Host.Outcome State Fault Refusal :=
  match c with
  | .breakAdd a => .next ((s.setBp (bpAdd a s.bp)).pushHist line)
  | .breakRemove a => .next ((s.setBp (bpRemove a s.bp)).pushHist line)
  | .breakList => .next ((s.print (breakpointLines s.bp)).pushHist line)
  | .continue_ => .next (s.setDbg .runContinue)
  | .continueUntilNotImpl => .next (s.setDbg .runCuni)
  | .step => commandStep line s
  | .next => .next ((s.print [.peeked (peek s)]).pushHist line)
  | .registers => .next ((s.print (registerLines s.bank)).pushHist line)
  | .history => .next ((s.print (historyLines s.hist)).pushHist line)
  | .help => .next ((s.print [.help]).pushHist line)
  | .exit => .next (s.exitOn line)

/-- Parse and execute one line while Idle; a parse error is printed, and the line is pushed (rules R215, R216). -/
def runLine (line : Line) (s : State) : Host.Outcome State Fault Refusal :=
  match parseLine line with
  | .error e => .next ((s.print [.parseError e]).pushHist line)
  | .ok c => runCommand c line s

/-! ## The running states -/

/-- One iteration of `continue` (rules R223, R240): the breakpoint test comes after the call (D24). -/
def continueTurn (s : State) : Host.Outcome State Fault Refusal :=
  match cycle s with
  | .next t => if t.atBreakpoint then .next (t.finish Keyword.continue_.word) else .next t
  | .fault f => .next (s.terminateOn f Keyword.continue_.word)
  | .refused .noImage => .next (s.finishNoImage Keyword.continue_.word)
  | .refused r => .refused r

/-- The cycle of one iteration of `continue-until-not-impl` (rule R224). -/
def cuniCycle (honours : Bool) (s : State) : Host.Outcome State Fault Refusal :=
  match cycle s with
  | .next t =>
    if honours && t.atBreakpoint then .next (t.finish Keyword.continueUntilNotImpl.word) else .next t
  | .fault f => .next (s.terminateOn f Keyword.continueUntilNotImpl.word)
  | .refused .noImage => .next (s.finishNoImage Keyword.continueUntilNotImpl.word)
  | .refused r => .refused r

/-- One iteration of `continue-until-not-impl` (rules R224, R240); `honours` is CUNI_HONOURS_BREAKPOINTS. -/
def cuniTurn (honours : Bool) (s : State) : Host.Outcome State Fault Refusal :=
  match peek s with
  | .raw b a => .next ((s.print [.raw b a]).finish Keyword.continueUntilNotImpl.word)
  | .fault f => .next (s.terminateOn f Keyword.continueUntilNotImpl.word)
  | .noImage => .next (s.finishNoImage Keyword.continueUntilNotImpl.word)
  | .instr _ => cuniCycle honours s

/-! ## The state machine (rule R240) -/

/-- One transition of the debugger. With no pending line an idle debugger waits for one, unchanged (log 20).
`Terminated` is absorbing (rule R242). -/
def debuggerTurn (s : State) : Host.Outcome State Fault Refusal :=
  match s.dbg with
  | .idle =>
    match s.input with
    | [] => .next s
    | line :: _ => runLine line s.dropInput
  | .runContinue => continueTurn s
  | .runCuni => cuniTurn Params.cuniHonoursBreakpoints s
  | .terminated _ => .next s

end Sys2Proof.Machine
end

