-- ==== Sys2Proof/Machine/Driver.lean ====
section
/-! DEFINITION. The two drivers (rule R318), what the outside world does to the machine (attach an image, type a line,
start the debugger), and placing an instruction where the next step fetches. -/

namespace Sys2Proof.Machine

/-! ## The drivers -/

/-- Set the control state of the frame loop. -/
def State.setFrame (fs : FrameState) (s : State) : State := { s with frame := fs }

/-- A fault is fatal to the frame loop: it prints it and terminates (rules R274, R318). The engine stays as it was before
the call (rule R150). -/
def State.stopFrame (f : Fault) (s : State) : State := (s.print [.fault f]).setFrame (.terminated f)

/-- One turn of the frame loop: a call of `cycle()` (rule R318). A `NoImage` goes to the caller (U10, log 8). Once it has
terminated it calls no more (rule R274). -/
def frameTurn (s : State) : Host.Outcome State Fault Refusal :=
  match s.frame with
  | .terminated _ => .next s
  | .running =>
    match cycle s with
    | .next t => .next t
    | .fault f => .next (s.stopFrame f)
    | .refused r => .refused r

/-- One turn of the driver that State names: a turn of the frame loop, or one transition of the debugger (rules R240,
R318; log 7). -/
def driverTurn (s : State) : Host.Outcome State Fault Refusal :=
  match s.driver with
  | .frameLoop => frameTurn s
  | .debugger => debuggerTurn s

/-! ## The outside world -/

/-- An image is attached (rules R142, R303). -/
def attachImage (img : Image) (s : State) : State := { s with image := some img }

/-- A line is typed (rule R211). -/
def typeLine (line : Line) (s : State) : State := { s with input := s.input ++ [line] }

/-- A debugger session starts: its state lives "only while the debugger session is active" (rules R46, R47, R318). -/
def startDebugger (s : State) : State :=
  { s with driver := .debugger, dbg := .idle, bp := [], hist := [], exitRequested := false }

/-! ## Placing an instruction for the next step -/

/-- A byte can be placed at an address: it lies in a ROM region (the image is the outside world's) or has a cell. -/
def placeable (a : Word) : Bool := backing (classify a) == .image || (storageCell a).isSome

/-- Store a byte in the image, lengthening it if it is too short, and attaching one if there is none. -/
def placeInImage (k : Nat) (v : Byte) (image : Option Image) : Image :=
  match image with
  | none => { len := k + 1, cells := Memory.write [] k v }
  | some img => { len := max img.len (k + 1), cells := img.cells.write k v }

/-- Place one byte at an address, whatever stands behind it. -/
def placeByte (s : State) (a : Word) (v : Byte) : State :=
  match storageCell a with
  | some k => s.writeCell k v
  | none => attachImage (placeInImage a.toNat v s.image) s

/-- Place bytes at ascending addresses (rule R80). -/
def placeBytes : State → Word → List Byte → State
  | s, _, [] => s
  | s, a, v :: vs => placeBytes (placeByte s a v) (a + 1#16) vs

/-- The state in which the next step is a fetch at `pc` and the bytes there can be placed: the frame loop drives and
runs, an image is attached (an empty one if there was none), the engine is retired, and `pc` is `PC_RESET` where the
bytes at `pc` cannot be placed (log 28). Whatever already holds is left as it is. -/
def readyToFetch (s : State) : State :=
  let s1 := { s with driver := .frameLoop, frame := .running, image := some (s.image.getD { len := 0, cells := [] }) }
  let s2 := if s1.is.retired then s1 else { s1 with is := .powerOn }
  if placeable s2.bank.pc && placeable (s2.bank.pc + 1#16) && placeable (s2.bank.pc + 2#16) then s2
  else s2.setPc Params.pcReset

/-- Place the bytes of a table word where the next step fetches. -/
def placeFetchWord (s : State) (nbits w : Nat) : State :=
  placeBytes (readyToFetch s) (readyToFetch s).bank.pc (tableBytes nbits w)

end Sys2Proof.Machine
end

