-- ==== Sys2Proof/Machine/Step.lean ====
section
/-! DEFINITION. The step function: one turn of the driver. Under the frame loop it is exactly one `cycle()` call, one
machine cycle (rule R12), and a fault is printed and ends the loop (rule R318). Under the debugger it is one transition of rule R240. -/

namespace Sys2Proof.Machine

/-- One step of the machine (log 7). -/
def step (s : State) : Host.Outcome State Fault Refusal := driverTurn s

/-- The state whose next step fetches and runs the instruction of a table word (log 28). -/
def State.withFetchWord (s : State) (nbits w : Nat) : State := placeFetchWord s nbits w

end Sys2Proof.Machine
end

