-- ==== Sys2Proof/Safety.lean ====
section
/-! DEFINITION. The invariant of the machine, what a claim may take unchanged, and how a run ends. -/

namespace Sys2Proof.Machine

/-- The cells of `State.mem` that stand behind some storage-backed address (rule R70). -/
def storageBacked (k : Nat) : Bool :=
  decide (k < 0x10000) && backing (classify (BitVec.ofNat 16 k)) == .storage

/-- What every reachable state satisfies. -/
structure State.Inv (s : State) : Prop where
  /-- F's low four bits are zero (rule R24). -/
  flagsLow : s.bank.f &&& 0x0F#8 = 0x00#8
  /-- The memory is in its canonical form. -/
  memWf : s.mem.wf = true
  /-- Only storage-backed cells are listed (rules R65, R74: ROM, echo, gap and placeholder are never written). -/
  memBacked : s.mem.keysIn storageBacked = true
  /-- The counter does not exceed the declared cycle count (rule R35). -/
  counterLe : s.is.counter ≤ s.is.cycles
  /-- After the first fetch the counter is at least 1 between two calls (rule R35). -/
  counterPos : s.is.instr ≠ none → 1 ≤ s.is.counter
  /-- The breakpoint set has no duplicates (rule R40). -/
  bpNodup : s.bp.Nodup
  /-- The history keeps its bounds (rule R246). -/
  histOk : histWf Config.historyCapacity s.hist = true
  /-- `exit_requested` is raised exactly in the state the command `exit` leads to (rule R231). -/
  exitMatches : s.exitRequested = true ↔ s.dbg = .terminated .exitRequested

/-- Everything outside the engine is the same: the debugger's state, the driver and its state, and the image. -/
structure SameOutside (s t : State) : Prop where
  image : t.image = s.image
  driver : t.driver = s.driver
  frame : t.frame = s.frame
  dbg : t.dbg = s.dbg
  bp : t.bp = s.bp
  hist : t.hist = s.hist
  exitRequested : t.exitRequested = s.exitRequested
  input : t.input = s.input
  out : t.out = s.out

/-- The engine's state is the same: registers, InstructionState, memory and image (rule R210). -/
structure SameEngine (s t : State) : Prop where
  bank : t.bank = s.bank
  is : t.is = s.is
  mem : t.mem = s.mem
  image : t.image = s.image

/-- The end of a run of the engine (rule R320, D35, log 45): a `cycle()` call whose outcome is a fault. -/
def RunEnds (s : State) (f : Fault) : Prop := cycle s = .fault f

/-- A safe run of `n` machine cycles: every call is `Done`. -/
def SafeFor (n : Nat) (s : State) : Prop := ∃ t, cycles n s = .next t

end Sys2Proof.Machine
end

