-- ==== Sys2Proof/Certificates/Slice0/Obligations.lean ====
section
/-! DEFINITION. The statements for the provers, from the numbered rules of spec/. A docstring names the rule a statement
formalises, and says where a clause rests on a choice the spec marks as its own or the model's log declares. -/

open Sys2Proof Sys2Proof.Machine

/-! ## Encoding -/

/-- Bytes written out from the tables of rule R118, one or more of each family, and bytes that table leaves out
(vectors V11 and V28). The bytes other than 0xC3 are the spec's choice D7 (log 12). -/
def Obligations.WrittenOutBytesDecode : Prop :=
  decode 0b00000000#8 = .recognized .nop ∧
  decode 0b00000110#8 = .recognized .ld_B_n ∧ decode 0b00111110#8 = .recognized .ld_A_n ∧
  decode 0b01000111#8 = .recognized .ld_B_A ∧ decode 0b01101100#8 = .recognized .ld_L_H ∧
  decode 0b01111000#8 = .recognized .ld_A_B ∧
  decode 0b01110000#8 = .recognized .ld_atHL_B ∧ decode 0b01110111#8 = .recognized .ld_atHL_A ∧
  decode 0b11000011#8 = .recognized .jp_nn ∧
  decode 0b01110110#8 = .unrecognized ∧ decode 0b00110110#8 = .unrecognized ∧
  decode 0b01000110#8 = .unrecognized ∧ decode 0b01111110#8 = .unrecognized ∧ decode 0b11010011#8 = .unrecognized

/-- A well-formed instruction, with every operand byte at every value, is read back from the stream whatever follows it
(rules R110, R118, R123). The bytes are the spec's choice D7 (log 12). -/
def Obligations.DecodingInvertsEncoding : Prop :=
  ∀ (x : StreamInstr) (rest : List Byte), x.wellFormed = true →
    decodeStream (encode x ++ rest) = .ok x rest

/-- Whatever the decoder accepts is the encoding of the well-formed instruction it answers: no byte of the stream is
dropped or read twice (rules R110, R118, R123). The bytes are the spec's choice D7 (log 12). -/
def Obligations.EncodingInvertsDecoding : Prop :=
  ∀ (bytes : List Byte) (x : StreamInstr) (rest : List Byte), decodeStream bytes = .ok x rest →
    x.wellFormed = true ∧ bytes = encode x ++ rest

/-- Exactly the bytes of no instruction are Unrecognized, and there are 191 of them (rule R121; the table is D7). -/
def Obligations.UnlistedBytesAreUnrecognized : Prop :=
  (∀ b : Byte, decode b = .unrecognized ↔ ∀ i : Instr, i.opcode ≠ b) ∧
  ((List.range 256).filter fun n => decide (decode (BitVec.ofNat 8 n) = .unrecognized)).length = 191

/-- The cycle count is a function of the tag, between 1 and 6; the counts of LD r,r' and LD (HL),r are D8 (rule R120). -/
def Obligations.CycleCountsByTag : Prop :=
  ∀ i : Instr, 1 ≤ i.cycles ∧ i.cycles ≤ 6 ∧ i.tag ≠ .NONE ∧
    (i.tag = .NOP → i.cycles = 1) ∧ (∀ d, i.tag = .LD_R_N d → i.cycles = 2) ∧
    (∀ d r, i.tag = .LD_R_R d r → i.cycles = 1) ∧ (∀ r, i.tag = .LD_HL_R r → i.cycles = 2) ∧
    (i.tag = .JP_NN → i.cycles = 4)

/-! ## The Register Bank -/

/-- Every write to F, alone or through AF, stores `v[7:4] : 0b0000` (rule R24), and a step from a state whose F has its
low bits zero leaves them zero. -/
def Obligations.FlagRegisterKeepsLowBitsZero : Prop :=
  (∀ (b : RegBank) (v : Byte), (b.set .F v).f = v &&& 0xF0#8) ∧
  (∀ (b : RegBank) (v : Word), (b.setPair .AF v).f = loByte v &&& 0xF0#8) ∧
  (∀ (r : Reg8 → Byte) (m : Memory) (i : Option Image) (d : Driver),
    (State.resetWith r m i d).bank.f &&& 0x0F#8 = 0x00#8) ∧
  (∀ s t : State, s.bank.f &&& 0x0F#8 = 0x00#8 → step s = .next t → t.bank.f &&& 0x0F#8 = 0x00#8)

/-- The pair views join their two halves, first register high (rule R26). -/
def Obligations.PairReadsJoinTheirHalves : Prop :=
  ∀ b : RegBank,
    (b.getPair .AF).toNat = b.a.toNat * 256 + b.f.toNat ∧ (b.getPair .BC).toNat = b.b.toNat * 256 + b.c.toNat ∧
    (b.getPair .DE).toNat = b.d.toNat * 256 + b.e.toNat ∧ (b.getPair .HL).toNat = b.h.toNat * 256 + b.l.toNat

/-- Writing a pair writes through to its two halves and nothing else; reading back gives the value, for AF with the low
four bits zero (rule R27). -/
def Obligations.PairWritesGoThroughToTheHalves : Prop :=
  ∀ (b : RegBank) (v : Word),
    b.setPair .BC v = { b with b := hiByte v, c := loByte v } ∧
    b.setPair .DE v = { b with d := hiByte v, e := loByte v } ∧
    b.setPair .HL v = { b with h := hiByte v, l := loByte v } ∧
    b.setPair .AF v = { b with a := hiByte v, f := loByte v &&& 0xF0#8 } ∧
    (b.setPair .BC v).getPair .BC = v ∧ (b.setPair .DE v).getPair .DE = v ∧ (b.setPair .HL v).getPair .HL = v ∧
    (b.setPair .AF v).getPair .AF = v &&& 0xFFF0#16

/-- Setting a flag rewrites that one bit of F and leaves the other seven bits and every other cell unchanged (rule R25);
the positions of the flags are D4 (log 25). The invariant `F[3:0] = 0` is the premise. -/
def Obligations.SettingAFlagRewritesOneBit : Prop :=
  ∀ (b : RegBank) (g : Flag) (v : Bool), b.f &&& 0x0F#8 = 0x00#8 →
    (b.setFlag g v).flag g = v ∧
    (∀ n, n ≠ g.bit → (b.setFlag g v).f.getLsbD n = b.f.getLsbD n) ∧
    b.setFlag g v = { b with f := (b.setFlag g v).f } ∧
    Flag.bit .Z = 7 ∧ Flag.bit .N = 6 ∧ Flag.bit .H = 5 ∧ Flag.bit .C = 4

/-- F and SP keep their values in every step, under either driver (rules R25, R31, both the spec's inference). -/
def Obligations.FlagsAndStackPointerNeverChange : Prop :=
  ∀ s t : State, step s = .next t → t.bank.f = s.bank.f ∧ t.bank.sp = s.bank.sp

/-! ## The address space -/

/-- The default REGION_MAP, address by address (rule R62; the boundaries are D15, log 9). -/
def Obligations.RegionOfEveryAddress : Prop :=
  ∀ a : Word,
    (classify a = .ROM0 ↔ a.toNat ≤ 0x3FFF) ∧
    (classify a = .ROMX ↔ 0x4000 ≤ a.toNat ∧ a.toNat ≤ 0x7FFF) ∧
    (classify a = .VRAM ↔ 0x8000 ≤ a.toNat ∧ a.toNat ≤ 0x9FFF) ∧
    (classify a = .EXTRAM ↔ 0xA000 ≤ a.toNat ∧ a.toNat ≤ 0xBFFF) ∧
    (classify a = .WRAM ↔ 0xC000 ≤ a.toNat ∧ a.toNat ≤ 0xDFFF) ∧
    (classify a = .ECHO ↔ 0xE000 ≤ a.toNat ∧ a.toNat ≤ 0xFDFF) ∧
    (classify a = .OAM ↔ 0xFE00 ≤ a.toNat ∧ a.toNat ≤ 0xFE9F) ∧
    (classify a = .GAP ↔ 0xFEA0 ≤ a.toNat ∧ a.toNat ≤ 0xFEFF) ∧
    (classify a = .IO ↔ 0xFF00 ≤ a.toNat ∧ a.toNat ≤ 0xFF7F) ∧
    (classify a = .HRAM ↔ 0xFF80 ≤ a.toNat ∧ a.toNat ≤ 0xFFFE) ∧
    (classify a = .IE ↔ a.toNat = 0xFFFF)

/-- The map has no gap and no overlap: one range, and only one, holds each address (rules R61, R63). The map is D15 (log
9). -/
def Obligations.ExactlyOneRangeHoldsEachAddress : Prop :=
  ∀ a : Word, ∃ r ∈ regionMap, r.holds a.toNat = true ∧ r.kind = classify a ∧
    ∀ q ∈ regionMap, q.holds a.toNat = true → q = r

/-- A read fails with Unreadable in the gap and nowhere else (rule R64). -/
def Obligations.OnlyTheGapIsUnreadable : Prop :=
  ∀ (s : State) (a : Word),
    (classify a = .GAP → memRead s a = .error (.unreadable a)) ∧
    (classify a ≠ .GAP → ∀ x, memRead s a ≠ .error (.unreadable x))

/-- A write fails with ReadOnly in ROM and the echo, with Unwritable in the gap, and succeeds everywhere else
(rule R65). -/
def Obligations.WritePolicyByRegion : Prop :=
  ∀ (s : State) (a : Word) (v : Byte),
    (classify a = .ROM0 ∨ classify a = .ROMX ∨ classify a = .ECHO → memWrite s a v = .error (.readOnly a)) ∧
    (classify a = .GAP → memWrite s a v = .error (.unwritable a)) ∧
    (classify a ≠ .ROM0 → classify a ≠ .ROMX → classify a ≠ .ECHO → classify a ≠ .GAP →
      ∃ t, memWrite s a v = .ok t)

/-- What a read answers in each region: the image's byte, or OutOfBounds beyond it; zero in the placeholder; working RAM
behind the echo; the cell elsewhere (rules R71, R72, R74, R79; BACKING is D16, the echo D17). Where working RAM and its
echo lie is D15 (log 9); D16 is log 10, D17 log 11. -/
def Obligations.ReadByRegion : Prop :=
  ∀ (s : State) (a : Word) (img : Image), s.image = some img →
    (classify a = .ROM0 ∨ classify a = .ROMX →
      memRead s a = if a.toNat < img.len then .ok (img.byteAt a.toNat) else .error (.outOfBounds a)) ∧
    (classify a = .EXTRAM → memRead s a = .ok 0x00#8) ∧
    (classify a = .ECHO → memRead s a = .ok (s.mem.read (a.toNat - 0x2000)) ∧
      memRead s a = memRead s (a - 0x2000#16)) ∧
    (classify a = .WRAM ∨ classify a = .VRAM ∨ classify a = .OAM ∨ classify a = .IO ∨ classify a = .HRAM ∨
      classify a = .IE → memRead s a = .ok (s.mem.read a.toNat))

/-- A store that succeeds is read back, at the address and at its echo; in the placeholder region it stores nothing and
reads as zero (rules R70, R71, R73, R74; D16, D17). The canonical form of memory is the premise. Where working RAM and
its echo lie is D15 (log 9); D16 is log 10, D17 log 11. -/
def Obligations.StoredByteReadsBack : Prop :=
  ∀ (s t : State) (a : Word) (v : Byte), s.mem.wf = true → memWrite s a v = .ok t →
    (classify a ≠ .EXTRAM → memRead t a = .ok v) ∧
    (classify a = .WRAM → a.toNat ≤ 0xDDFF → memRead t (a + 0x2000#16) = .ok v) ∧
    (classify a = .EXTRAM → t = s ∧ memRead t a = .ok 0x00#8)

/-- A store changes no byte but the addressed one: every address whose cell is another, or that has no cell, reads as
before, and no other part of the state changes (rules R73, R86). Choices: which addresses have a cell of storage is D16
(log 10), that the echo shows working RAM's is D17 (log 11). -/
def Obligations.StoreLeavesEveryOtherByte : Prop :=
  ∀ (s t : State) (a : Word) (v : Byte), memWrite s a v = .ok t →
    (∀ x : Word, storageCell x = none ∨ storageCell x ≠ storageCell a → memRead t x = memRead s x) ∧
    t = { s with mem := t.mem } ∧ (∀ k : Nat, storageCell a ≠ some k → t.mem.read k = s.mem.read k)

/-- `ImageRead` (rule R78): CountTooHigh above four, then OutOfBounds beyond the image, else the bytes with the first
most significant. The order of the two checks is D40. -/
def Obligations.ImageReadIsBigEndian : Prop :=
  ∀ (img : Image) (addr count : Nat),
    (count > 4 → imageRead img addr count = .error .countTooHigh) ∧
    (count ≤ 4 → addr + count > img.len → imageRead img addr count = .error .outOfBounds) ∧
    (count ≤ 4 → addr + count ≤ img.len → ∃ v, imageRead img addr count = .ok v ∧ v < 256 ^ count ∧
      ∀ k, k < count → v / 256 ^ (count - 1 - k) % 256 = (img.byteAt (addr + k)).toNat)

/-! ## What an instruction does in each of its cycles (the results are the completion statements) -/

/-- `NOP` (rule R200): one cycle, no side effect, in every state. -/
def Obligations.NopHasNoSideEffect : Prop :=
  Instr.cycles .nop = 1 ∧ ∀ s : State, exec .nop s = .next s

/-- `LD r,n` (rule R180), for each destination: cycle 1 reads the operand at `pc` into `op1` and advances `pc` (or faults
with that read's fault), cycle 2 writes the register; nothing else changes. The wrap of `pc` is D14, its advance D43. -/
def Obligations.LoadImmediateByCycle : Prop :=
  ∀ (i : Instr) (dst : OpReg) (s : State), i.tag = .LD_R_N dst →
    i.cycles = 2 ∧ i.tag.format = .F2 ∧
    (∀ v, s.is.counter = 1 → memRead s s.bank.pc = .ok v →
      exec i s = .next { s with bank := { s.bank with pc := s.bank.pc + 1#16 }, is := { s.is with op1 := v } }) ∧
    (∀ f, s.is.counter = 1 → memRead s s.bank.pc = .error f → exec i s = .fault f) ∧
    (s.is.counter = 2 → exec i s = .next { s with bank := s.bank.set dst.reg s.is.op1 } ∧
      (s.bank.set dst.reg s.is.op1).get dst.reg = s.is.op1 ∧
      (∀ q, q ≠ dst.reg → (s.bank.set dst.reg s.is.op1).get q = s.bank.get q) ∧
      (s.bank.set dst.reg s.is.op1).pc = s.bank.pc ∧ (s.bank.set dst.reg s.is.op1).sp = s.bank.sp)

/-- `LD r,r'` (rule R181), for each pair: its one cycle copies the source; the same register twice changes nothing; no
other cell changes. The cycle count is D8, the cycle of the effect D9. -/
def Obligations.MoveCopiesTheSource : Prop :=
  ∀ (i : Instr) (dst src : OpReg) (s : State), i.tag = .LD_R_R dst src →
    i.cycles = 1 ∧ i.tag.format = .F1 ∧
    (s.is.counter = 1 → ∃ b : RegBank, exec i s = .next { s with bank := b } ∧
      b.get dst.reg = s.bank.get src.reg ∧ (∀ q, q ≠ dst.reg → b.get q = s.bank.get q) ∧
      b.pc = s.bank.pc ∧ b.sp = s.bank.sp ∧ (dst = src → b = s.bank))

/-- `LD (HL),r` (rule R182), for each source: nothing on cycle 1; on cycle 2 the register is written at `xx[HL]` as
MemWrite says: stored in a storage-backed region, discarded in the placeholder, ReadOnly or Unwritable elsewhere. No
register changes, and every byte that is not behind `xx[HL]` reads as before. Cycle counts and places are D8, D9 (log
12, 34). Which regions store and that EXTRAM discards is D16 (log 10); that the echo shows working RAM's cell is D17
(log 11). -/
def Obligations.StoreAtHLByCycle : Prop :=
  ∀ (i : Instr) (src : OpReg) (s : State), i.tag = .LD_HL_R src →
    i.cycles = 2 ∧ i.tag.format = .F1 ∧
    (s.is.counter = 1 → exec i s = .next s) ∧
    (s.is.counter = 2 →
      (∀ k, storageCell (s.bank.getPair .HL) = some k → classify (s.bank.getPair .HL) ≠ .ECHO →
        exec i s = .next { s with mem := s.mem.write k (s.bank.get src.reg) }) ∧
      (classify (s.bank.getPair .HL) = .EXTRAM → exec i s = .next s) ∧
      (writePolicy (classify (s.bank.getPair .HL)) = .readOnly →
        exec i s = .fault (.readOnly (s.bank.getPair .HL))) ∧
      (classify (s.bank.getPair .HL) = .GAP → exec i s = .fault (.unwritable (s.bank.getPair .HL)))) ∧
    (∀ t, exec i s = .next t → ∀ x : Word,
      storageCell x = none ∨ storageCell x ≠ storageCell (s.bank.getPair .HL) → memRead t x = memRead s x)

/-- `JP nn` (rule R201): four cycles, opcode 0xC3, format F3; nothing on cycle 1; the operand bytes on cycles 2 and 3,
each advancing `pc` modulo 65536 or faulting with its read's fault; on cycle 4 `pc` becomes `op1 : op2`, unchecked.
Nothing but `pc` and the latches changes. Choices: that the first operand byte is the high one is D10 (log 33), the
advance of `pc` by an operand read D43 (log 32), its wrap D14 (log 15). -/
def Obligations.JumpByCycle : Prop :=
  Instr.cycles .jp_nn = 4 ∧ Instr.opcode .jp_nn = 0xC3#8 ∧ decode 0xC3#8 = .recognized .jp_nn ∧
  Tag.format .JP_NN = .F3 ∧
  ∀ s : State,
    (s.is.counter = 1 → exec .jp_nn s = .next s) ∧
    (∀ v, memRead s s.bank.pc = .ok v →
      (s.is.counter = 2 → exec .jp_nn s =
        .next { s with bank := { s.bank with pc := s.bank.pc + 1#16 }, is := { s.is with op1 := v } }) ∧
      (s.is.counter = 3 → exec .jp_nn s =
        .next { s with bank := { s.bank with pc := s.bank.pc + 1#16 }, is := { s.is with op2 := v } })) ∧
    (∀ f, memRead s s.bank.pc = .error f → s.is.counter = 2 ∨ s.is.counter = 3 → exec .jp_nn s = .fault f) ∧
    (s.is.counter = 4 → ∃ w : Word, exec .jp_nn s = .next { s with bank := { s.bank with pc := w } } ∧
      w.toNat = s.is.op1.toNat * 256 + s.is.op2.toNat)

/-- A pair outside the dispatch table has no effect (rule R148, the choice D38, log 27). R148 names the counts above the
cycle count; that a count of 0, which no dispatch sees, has no effect either is the model's (log 27). -/
def Obligations.PairsOutsideTheTableHaveNoEffect : Prop :=
  ∀ (i : Instr) (s : State), s.is.counter = 0 ∨ i.cycles < s.is.counter → exec i s = .next s

/-- The frame of every instruction (rules R183, R202, the spec's inference): a register changes only as the destination
of a load or move; F, SP, the tag and the counter never; `pc` only by JP nn and by the operand read of LD r,n; memory
only by LD (HL),r, and there only behind `xx[HL]`; nothing outside the engine. Choices: which addresses have a cell of
storage is D16 (log 10), that the echo shows working RAM's is D17 (log 11), that an operand read advances `pc` is D43
(log 32). -/
def Obligations.FrameOfEveryInstruction : Prop :=
  ∀ (i : Instr) (s t : State), exec i s = .next t →
    (∀ q : Reg8, (∀ d : OpReg, (i.tag = .LD_R_N d ∨ ∃ r, i.tag = .LD_R_R d r) → q ≠ d.reg) →
      t.bank.get q = s.bank.get q) ∧
    t.bank.sp = s.bank.sp ∧ t.is.instr = s.is.instr ∧ t.is.counter = s.is.counter ∧
    ((∀ d, i.tag ≠ .LD_R_N d) → i.tag ≠ .JP_NN → t.bank.pc = s.bank.pc ∧ t.is = s.is) ∧
    ((∀ r, i.tag ≠ .LD_HL_R r) → t.mem = s.mem ∧ ∀ x : Word, memRead t x = memRead s x) ∧
    (∀ r, i.tag = .LD_HL_R r → ∀ x : Word,
      storageCell x = none ∨ storageCell x ≠ storageCell (s.bank.getPair .HL) → memRead t x = memRead s x) ∧
    SameOutside s t

/-! ## The engine -/

/-- `cycle()` follows the pseudocode of rule R141: NoImage first; then, if the instruction is retired, the fetch with
its two failures or the install; then the counter and the dispatch. Under a running frame loop a step is one such call,
whose fault it prints and which then ends the loop (rule R318), so a step runs the instruction the bytes at `pc` decode
to. The check of the image first is D19, the wrap of `pc` D14, the unchanged `pc` of an invalid opcode D12, the cleared
latches D6. That the engine is as before a faulting call is D11 (R150, log 14); that the loop ends in the field `frame`
is log 46; that NoImage is the refusal of that name is log 8; D19 is log 31. -/
def Obligations.StepRunsTheDecodedInstruction : Prop :=
  (∀ s : State, s.driver = .frameLoop → s.frame = .running →
    (∀ t, cycle s = .next t → step s = .next t) ∧
    (∀ f, cycle s = .fault f → step s = .next { s with out := s.out ++ [.fault f], frame := .terminated f }) ∧
    (∀ r, cycle s = .refused r → step s = .refused r)) ∧
  ∀ s : State,
    (s.image = none → cycle s = .refused .noImage) ∧
    (s.image ≠ none → s.is.retired = true →
      (∀ f, memRead s s.bank.pc = .error f → cycle s = .fault f) ∧
      (∀ b, memRead s s.bank.pc = .ok b → decode b = .unrecognized →
        cycle s = .fault (.invalidOpcode b s.bank.pc)) ∧
      (∀ b i, memRead s s.bank.pc = .ok b → decode b = .recognized i →
        cycle s = exec i { s with
          bank := { s.bank with pc := s.bank.pc + 1#16 },
          is := { instr := some i, counter := 1, op1 := 0x00#8, op2 := 0x00#8 } })) ∧
    (s.image ≠ none → s.is.retired = false → ∀ i, s.is.instr = some i →
      cycle s = exec i { s with is := { s.is with counter := s.is.counter + 1 } })

/-- A fetch discards the old InstructionState and installs a fresh one; the sentinel is never installed, and no step
re-enters it (rules R38, R127; the cleared latches are D6, log 16). -/
def Obligations.FetchInstallsAFreshInstruction : Prop :=
  (∀ s t : State, fetch s = .ok t → ∃ b i, memRead s s.bank.pc = .ok b ∧ decode b = .recognized i ∧
    t.is = { instr := some i, counter := 0, op1 := 0x00#8, op2 := 0x00#8 }) ∧
  (∀ (b : Byte) (i : Instr), decode b = .recognized i → i.tag ≠ .NONE) ∧
  (∀ s t : State, s.is.tag ≠ .NONE → step s = .next t → t.is.tag ≠ .NONE)

/-- Which call raises which fault, with what it records (rules R262 to R267; R262's clause on the state after is D12 and
is not stated here): InvalidOpcode by the fetch of a retired engine, at `pc`; Unreadable and OutOfBounds by the opcode
fetch and the operand reads of LD r,n and JP nn, at the address read, which is `pc` at that moment; ReadOnly and
Unwritable by cycle 2 of LD (HL),r at `xx[HL]`; CountTooHigh never. Choices: after the fetch of LD r,n the address is
`pc + 1`, modulo 65536 by D14 (log 15); that the store is in cycle 2 of two is D8 and D9 (log 12, 34). The premise is
the invariant: it rules out an instruction in flight that has not run its first cycle. That an operand read is at the
advanced `pc` is D43 (log 32), that a ROM address reads the image at that absolute address D16 (log 10), and that these
faults besides InvalidOpcode are outcomes of `cycle()` D13 (log 14). -/
def Obligations.CauseOfEveryFault : Prop :=
  ∀ (s : State) (f : Fault), s.Inv → cycle s = .fault f →
    let readAt (a : Word) : Prop :=
      (s.is.retired = true ∧ a = s.bank.pc) ∨
      (s.is.retired = true ∧ a = s.bank.pc + 1#16 ∧
        ∃ b i d, memRead s s.bank.pc = .ok b ∧ decode b = .recognized i ∧ i.tag = .LD_R_N d) ∨
      (s.is.tag = .JP_NN ∧ (s.is.counter = 1 ∨ s.is.counter = 2) ∧ a = s.bank.pc)
    let storeAt (a : Word) : Prop :=
      (∃ r, s.is.tag = .LD_HL_R r) ∧ s.is.counter = 1 ∧ a = s.bank.getPair .HL
    match f with
    | .invalidOpcode b a => s.is.retired = true ∧ a = s.bank.pc ∧ memRead s a = .ok b ∧ decode b = .unrecognized
    | .unreadable a => classify a = .GAP ∧ readAt a
    | .outOfBounds a => (classify a = .ROM0 ∨ classify a = .ROMX) ∧
        (∃ img, s.image = some img ∧ img.len ≤ a.toNat) ∧ readAt a
    | .readOnly a => (classify a = .ROM0 ∨ classify a = .ROMX ∨ classify a = .ECHO) ∧ storeAt a
    | .unwritable a => classify a = .GAP ∧ storeAt a
    | .countTooHigh _ => False

/-- `pc` changes in the three ways of rule R29 and in no other: by a fetch, by an operand read (in cycle 1 of LD r,n,
and in cycles 2 and 3 of JP nn), and by cycle 4 of JP nn. The wrap is D14. The premise is the invariant: it rules out an
instruction in flight that has not run its first cycle. Choices: that cycle 4 of JP nn (rule R201) makes `pc` the word
`op1 : op2`, the first operand byte high, is D10 (log 33); that each operand read advances `pc` by one is D43 (log 32);
the wrap is log 15. -/
def Obligations.ProgramCounterChangesInThreeWays : Prop :=
  ∀ s t : State, s.Inv → cycle s = .next t →
    (s.is.retired = true ∧ ∃ i, t.is.instr = some i ∧
      ((∃ d, i.tag = .LD_R_N d ∧ t.bank.pc = s.bank.pc + 2#16) ∨
        ((∀ d, i.tag ≠ .LD_R_N d) ∧ t.bank.pc = s.bank.pc + 1#16))) ∨
    (s.is.retired = false ∧
      ((s.is.tag ≠ .JP_NN ∧ t.bank.pc = s.bank.pc) ∨
        (s.is.tag = .JP_NN ∧ (s.is.counter = 1 ∨ s.is.counter = 2) ∧ t.bank.pc = s.bank.pc + 1#16) ∨
        (s.is.tag = .JP_NN ∧ s.is.counter = 3 ∧ t.bank.pc = joinBytes s.is.op1 s.is.op2)))

/-- A `Done` call leaves everything outside the engine: the image (rule R303), the driver, and the debugger's state
(rules R210, R295), and it performs one increment of the counter after at most one fetch (rule R149). -/
def Obligations.CycleTouchesTheEngineOnly : Prop :=
  ∀ s t : State, cycle s = .next t → SameOutside s t ∧
    t.is.counter = (if s.is.retired then 0 else s.is.counter) + 1 ∧
    (s.is.retired = false → t.is.instr = s.is.instr)

/-- `peek` tells the next call (rule R157, the spec's inference; the outcomes besides Instr and Raw are D23). Those
outcomes are log 30. Choices also: the address of an invalid opcode is D12 (log 14), a missing image is tested first by
D19 (log 31), the latches of a fresh instruction are cleared by D6 (log 16). -/
def Obligations.PeekPredictsTheNextCycle : Prop :=
  ∀ s : State,
    (∀ b a, peek s = .raw b a → cycle s = .fault (.invalidOpcode b a)) ∧
    (∀ f, peek s = .fault f → cycle s = .fault f) ∧
    (peek s = .noImage → cycle s = .refused .noImage) ∧
    (∀ x, peek s = .instr x → s.is.retired = true →
      x.counter = 0 ∧ x.op1 = 0x00#8 ∧ x.op2 = 0x00#8 ∧ ∀ t, cycle s = .next t → t.is.instr = x.instr) ∧
    (∀ x, peek s = .instr x → s.is.retired = false → x = s.is)

/-- A byte stored by the running program is fetched as an opcode by the next fetch at its address, with nothing in
between (rule R95, the spec's inference). Choices: that every accepting region but EXTRAM gives the byte back is D16
(log 10); `pc` at `a + 1`, modulo 65536, is D14 (log 15); the cleared latches are D6 (log 16). -/
def Obligations.StoredByteIsFetchedAsAnOpcode : Prop :=
  ∀ (s t u : State) (a : Word) (v : Byte) (i : Instr), s.mem.wf = true → memWrite s a v = .ok t →
    classify a ≠ .EXTRAM → decode v = .recognized i →
    u.mem = t.mem → u.image = t.image → u.image ≠ none → u.is.retired = true → u.bank.pc = a →
    cycle u = exec i { u with
      bank := { u.bank with pc := a + 1#16 },
      is := { instr := some i, counter := 1, op1 := 0x00#8, op2 := 0x00#8 } }

/-- After the call that fetched an instruction, and `CYCLES - 1` further `Done` calls, the counter equals the cycle
count, the instruction is retired, none of the further calls fetched, and the next call that gets past step 0 fetches
(rule R152). -/
def Obligations.InstructionRetiresAfterItsCycles : Prop :=
  ∀ (s u : State) (i : Instr), s.is.retired = true → cycle s = .next u → u.is.instr = some i →
    ∀ (k : Nat) (t : State), k ≤ i.cycles - 1 → cycles k u = .next t →
      t.is.instr = some i ∧ t.is.counter = k + 1 ∧
      (t.is.retired = true ↔ k = i.cycles - 1) ∧
      (k = i.cycles - 1 → cycle t = match fetch t with
        | .error f => .fault f
        | .ok w => runCycle w)

/-- The whole jump (rule R201, the source's example): from a retired engine with the bytes of `JP nn` at `pc`, four
calls, and no fewer, retire it; then `pc` is the target exactly, high byte first (rule R80; the order is D10, C1,
log 33). The advance of `pc` by each operand read is D43 (log 32), its wrap D14 (log 15). -/
def Obligations.JumpRetiresInExactlyFourCycles : Prop :=
  ∀ (s : State) (hi lo : Byte), s.image ≠ none → s.is.retired = true →
    memRead s s.bank.pc = .ok 0xC3#8 → memRead s (s.bank.pc + 1#16) = .ok hi →
    memRead s (s.bank.pc + 2#16) = .ok lo →
    (∃ w : Word, w.toNat = hi.toNat * 256 + lo.toNat ∧ cycles 4 s = .next { s with
      bank := { s.bank with pc := w }, is := { instr := some .jp_nn, counter := 4, op1 := hi, op2 := lo } }) ∧
    ∀ k, 0 < k → k < 4 → ∃ t, cycles k s = .next t ∧ t.is.retired = false ∧
      t.bank.pc = s.bank.pc + BitVec.ofNat 16 k

/-- The whole `LD r,n` (rule R180): two calls; after the first the register still holds its old value and `pc` is
already past the operand, after the second the register holds it. The advance of `pc` by the operand read is D43
(log 32), its wrap D14 (log 15), the cleared second latch D6 (log 16). -/
def Obligations.LoadImmediateRetiresInTwoCycles : Prop :=
  ∀ (s : State) (i : Instr) (dst : OpReg) (b n : Byte), s.image ≠ none → s.is.retired = true →
    memRead s s.bank.pc = .ok b → decode b = .recognized i → i.tag = .LD_R_N dst →
    memRead s (s.bank.pc + 1#16) = .ok n →
    cycles 1 s = .next { s with
      bank := { s.bank with pc := s.bank.pc + 2#16 }, is := { instr := some i, counter := 1, op1 := n, op2 := 0x00#8 } } ∧
    cycles 2 s = .next { s with
      bank := { s.bank.set dst.reg n with pc := s.bank.pc + 2#16 },
      is := { instr := some i, counter := 2, op1 := n, op2 := 0x00#8 } }

/-- The whole `LD (HL),r` (rules R182, R145): two calls; the store has not happened after the first; a store into a
read-only region faults on the second. Stores into the placeholder and the gap are in `StoreAtHLByCycle`. Choices: the
count of two and the store in the second are D8 and D9 (log 12, 34); `pc + 1`, modulo 65536, is D14 (log 15); the cleared
latches are D6 (log 16); which addresses have a cell of storage is D16 (log 10). -/
def Obligations.StoreRetiresInTwoCycles : Prop :=
  ∀ (s : State) (i : Instr) (src : OpReg) (b : Byte), s.image ≠ none → s.is.retired = true →
    memRead s s.bank.pc = .ok b → decode b = .recognized i → i.tag = .LD_HL_R src →
    ∃ t, cycles 1 s = .next t ∧ t.mem = s.mem ∧ t.is.counter = 1 ∧ t.bank.pc = s.bank.pc + 1#16 ∧
      (∀ k, storageCell (s.bank.getPair .HL) = some k → classify (s.bank.getPair .HL) ≠ .ECHO →
        cycles 2 s = .next { s with
          bank := { s.bank with pc := s.bank.pc + 1#16 }, mem := s.mem.write k (s.bank.get src.reg),
          is := { instr := some i, counter := 2, op1 := 0x00#8, op2 := 0x00#8 } }) ∧
      (writePolicy (classify (s.bank.getPair .HL)) = .readOnly →
        cycle t = .fault (.readOnly (s.bank.getPair .HL)))

/-- After cycle 4 of JP nn `pc` is the target exactly and the jump is retired; the next call fetches at the target, and
that fetch leaves `pc` at the target plus one: no increment was pending (rule R154). Choices: that the target is
`op1 : op2`, the first operand byte high, is D10 (log 33); that the plus one is modulo 65536 is D14 (log 15). -/
def Obligations.NoIncrementIsPendingAfterAJump : Prop :=
  ∀ s : State, s.image ≠ none → s.is.instr = some .jp_nn → s.is.counter = 3 →
    ∃ t, cycle s = .next t ∧ t.bank.pc.toNat = s.is.op1.toNat * 256 + s.is.op2.toNat ∧ t.is.retired = true ∧
      (cycle t = match fetch t with
        | .error f => .fault f
        | .ok w => runCycle w) ∧
      ∀ w, fetch t = .ok w → w.bank.pc = t.bank.pc + 1#16 ∧
        ∃ b i, memRead t t.bank.pc = .ok b ∧ decode b = .recognized i ∧ w.is.instr = some i

/-! ## Reset and the invariant -/

/-- The reset state for every REG_RESET, MEM_RESET, IMAGE and driver (rules R46, R300), and that the model's
`State.reset` is one of them. The values 0x0100 and 0xFFFE are D1 and D2 (log 1, 2); image and driver log 5, 6. Choices
also: the sentinel with counter 0 is retired by D5 (R37, log 43); the latches are 0x00 by D6 (log 16); REG_RESET and
MEM_RESET are D3 and D18 (log 3, 4); that `exit_requested` is not raised is log 20. -/
def Obligations.ResetStateOfEveryParameter : Prop :=
  (∀ (r : Reg8 → Byte) (m : Memory) (img : Option Image) (d : Driver),
    let s := State.resetWith r m img d
    s.bank.pc = 0x0100#16 ∧ s.bank.sp = 0xFFFE#16 ∧
    (∀ q : Reg8, q ≠ .F → s.bank.get q = r q) ∧ s.bank.f = r .F &&& 0xF0#8 ∧
    s.is = { instr := none, counter := 0, op1 := 0x00#8, op2 := 0x00#8 } ∧ s.is.retired = true ∧
    s.mem = m ∧ s.image = img ∧ s.driver = d ∧ s.frame = .running ∧ s.bp = [] ∧ s.hist = [] ∧ s.dbg = .idle ∧ s.exitRequested = false) ∧
  State.reset = State.resetWith (fun _ => 0x00#8) [] none .frameLoop

/-- The first call after reset fetches at `PC_RESET`, whatever the registers and storage hold (rules R153, R301; the
value 0x0100 is D1, log 1; the cleared latches are D6, log 16). Choices also: that 0x0100 lies in ROM0 is D15 (R62, log
9); that ROM shows the image's byte at the absolute address, with no overlay, is D16 (R79, log 10); that the reset
InstructionState is retired is D5 (log 43). -/
def Obligations.FirstCallFetchesAtTheEntry : Prop :=
  ∀ (r : Reg8 → Byte) (m : Memory) (img : Image) (d : Driver) (i : Instr),
    decode (img.byteAt 0x0100) = .recognized i → 0x0100 < img.len →
    cycle (State.resetWith r m (some img) d) =
      exec i { State.resetWith r m (some img) d with
        bank := { (State.resetWith r m (some img) d).bank with pc := 0x0101#16 },
        is := { instr := some i, counter := 1, op1 := 0x00#8, op2 := 0x00#8 } }

/-- The invariant holds at reset, for every REG_RESET, image and driver and every canonical MEM_RESET. Choices: the
cycle count 0 of the sentinel is D5 (log 43), which cells are storage-backed D15 and D16 (log 9, 10); the canonical form
of memory is the model's (log 4), the bit `exit_requested` log 20, and `State.reset` has the defaults of log 3 to 6. -/
def Obligations.ResetSatisfiesTheInvariant : Prop :=
  State.reset.Inv ∧
  ∀ (r : Reg8 → Byte) (m : Memory) (img : Option Image) (d : Driver), m.wf = true →
    Memory.keysIn storageBacked m = true → (State.resetWith r m img d).Inv

/-- Every step keeps the invariant: F's low bits zero (R24), memory canonical and only storage-backed cells listed, the
counter within its bounds (R35), the breakpoint set without duplicates (R40), the history within its bounds (R246), and
`exit_requested` matching the control state (R231; the bit itself is log 20). Choices: the cycle count 0 of the sentinel
is D5 (log 43), which cells are storage-backed D15 and D16 (log 9, 10), the capacity of the history is D32 (log 18,
open); the canonical form of memory is the model's (log 4). -/
def Obligations.EveryStepKeepsTheInvariant : Prop :=
  ∀ s t : State, s.Inv → step s = .next t → t.Inv

/-! ## The Debugger Control Layer -/

/-- The debugger changes engine state by calling `cycle()` only, and is the only writer of the breakpoint set and the
history (rule R210): a step leaves registers, InstructionState, memory and image, or makes them those after one `Done`
call from them; the image and the driver never change. That a faulting call leaves the engine as it was is D11 (R150,
log 14). -/
def Obligations.DebuggerChangesTheEngineByCycleOnly : Prop :=
  (∀ s t : State, s.driver = .debugger → step s = .next t →
    SameEngine s t ∨ ∃ u v, SameEngine s u ∧ cycle u = .next v ∧ SameEngine v t) ∧
  (∀ s t : State, s.driver = .frameLoop → step s = .next t → t.bp = s.bp ∧ t.hist = s.hist) ∧
  (∀ s t : State, step s = .next t → t.image = s.image ∧ t.driver = s.driver)

/-- The breakpoint test is made after each `Done` call, on the `pc` that call left, whatever `is` holds (rule R236).
That `continue` tests after the call and not before is D24 (log 35). -/
def Obligations.ContinueTestsBreakpointsAfterEveryCycle : Prop :=
  ∀ s t : State, s.driver = .debugger → s.dbg = .runContinue → cycle s = .next t →
    (t.bank.pc ∈ t.bp → ∃ u, step s = .next u ∧ u.dbg = .idle ∧ SameEngine t u ∧ u.bp = s.bp ∧ u.out = s.out) ∧
    (t.bank.pc ∉ t.bp → step s = .next t ∧ t.dbg = .runContinue)

/-- The transition table of rule R240, row by row, with what each row prints and pushes. Choices: the engine in a fault
row is as before the call by D11 (R150, R238, log 14); the rows of a fault or a missing image in `peek` are D23 (log
30); the test after the call is D24 (log 35), CUNI_HONOURS_BREAKPOINTS D25 (log 19), no test after `step` D26 (log 40),
NoImage in a command D27 (log 36), the silent no-ops D30 (log 37), the order of `registers` D31 (log 38), the order of
`history` D32 (log 44); that an absent image is NoImage in every state is D19 (R142, log 31); that the rows to
Terminated push the line, and the row of a breakpoint in RunCuni, whose action in R240 is none, is R216 (log 21); that
last row has no state under the default of D25; and outputs without a wording are log 22. -/
def Obligations.DebuggerTransitionTable : Prop :=
  ∀ s : State, s.driver = .debugger →
    (∀ line rest, s.dbg = .idle → s.input = line :: rest →
      (∀ e, parseLine line = .error e → step s = .next { s with
        input := rest, out := s.out ++ [.parseError e], hist := histPush Config.historyCapacity line s.hist }) ∧
      (∀ a, parseLine line = .ok (.breakAdd a) → step s = .next { s with
        input := rest, bp := bpAdd a s.bp, hist := histPush Config.historyCapacity line s.hist }) ∧
      (∀ a, parseLine line = .ok (.breakRemove a) → step s = .next { s with
        input := rest, bp := bpRemove a s.bp, hist := histPush Config.historyCapacity line s.hist }) ∧
      (parseLine line = .ok .breakList → step s = .next { s with
        input := rest, out := s.out ++ breakpointLines s.bp,
        hist := histPush Config.historyCapacity line s.hist }) ∧
      (parseLine line = .ok .next → step s = .next { s with
        input := rest, out := s.out ++ [.peeked (peek s)], hist := histPush Config.historyCapacity line s.hist }) ∧
      (parseLine line = .ok .registers → step s = .next { s with
        input := rest, out := s.out ++ registerLines s.bank,
        hist := histPush Config.historyCapacity line s.hist }) ∧
      (parseLine line = .ok .help → step s = .next { s with
        input := rest, out := s.out ++ [.help], hist := histPush Config.historyCapacity line s.hist }) ∧
      (parseLine line = .ok .history → step s = .next { s with
        input := rest, out := s.out ++ historyLines s.hist }) ∧
      (parseLine line = .ok .continue_ → step s = .next { s with input := rest, dbg := .runContinue }) ∧
      (parseLine line = .ok .continueUntilNotImpl → step s = .next { s with input := rest, dbg := .runCuni }) ∧
      (parseLine line = .ok .exit → step s = .next { s with
        input := rest, dbg := .terminated .exitRequested, exitRequested := true,
        hist := histPush Config.historyCapacity line s.hist }) ∧
      (parseLine line = .ok .step →
        (∀ t, cycle { s with input := rest } = .next t → step s = .next { t with
          dbg := .idle, hist := histPush Config.historyCapacity line s.hist }) ∧
        (∀ f, cycle { s with input := rest } = .fault f → step s = .next { s with
          input := rest, out := s.out ++ [.fault f], dbg := .terminated (.fault f),
          hist := histPush Config.historyCapacity line s.hist }) ∧
        (s.image = none → step s = .next { s with
          input := rest, out := s.out ++ [.noImage], hist := histPush Config.historyCapacity line s.hist }))) ∧
    (s.dbg = .runContinue →
      (∀ t, cycle s = .next t → t.bank.pc ∉ s.bp → step s = .next t ∧ t.dbg = .runContinue) ∧
      (∀ t, cycle s = .next t → t.bank.pc ∈ s.bp → step s = .next { t with
        dbg := .idle, hist := histPush Config.historyCapacity "continue".toList s.hist }) ∧
      (s.image = none → step s = .next { s with
        dbg := .idle, out := s.out ++ [.noImage],
        hist := histPush Config.historyCapacity "continue".toList s.hist }) ∧
      (∀ f, cycle s = .fault f → step s = .next { s with
        out := s.out ++ [.fault f], dbg := .terminated (.fault f),
        hist := histPush Config.historyCapacity "continue".toList s.hist })) ∧
    (s.dbg = .runCuni →
      (∀ x t, peek s = .instr x → cycle s = .next t →
        (Params.cuniHonoursBreakpoints = false ∨ t.bank.pc ∉ s.bp) → step s = .next t ∧ t.dbg = .runCuni) ∧
      (∀ x t, peek s = .instr x → cycle s = .next t → Params.cuniHonoursBreakpoints = true → t.bank.pc ∈ s.bp →
        step s = .next { t with
          dbg := .idle, hist := histPush Config.historyCapacity "continue-until-not-impl".toList s.hist }) ∧
      (∀ b a, peek s = .raw b a → step s = .next { s with
        dbg := .idle, out := s.out ++ [.raw b a],
        hist := histPush Config.historyCapacity "continue-until-not-impl".toList s.hist }) ∧
      (peek s = .noImage → step s = .next { s with
        dbg := .idle, out := s.out ++ [.noImage],
        hist := histPush Config.historyCapacity "continue-until-not-impl".toList s.hist }) ∧
      (∀ f, (peek s = .fault f ∨ ∃ x, peek s = .instr x ∧ cycle s = .fault f) → step s = .next { s with
        out := s.out ++ [.fault f], dbg := .terminated (.fault f),
        hist := histPush Config.historyCapacity "continue-until-not-impl".toList s.hist })) ∧
    (∀ why, s.dbg = .terminated why → step s = .next s)

/-- Nothing but a breakpoint, a missing image, an undecodable byte or a fault leads out of the running states, and no
line is read in them (rule R241). The default of CUNI_HONOURS_BREAKPOINTS is D25 (log 19). Choices also: a fault or a
missing image in `peek` is D23 (log 30), the breakpoint test after the call D24 (log 35), NoImage in a command D27 (log
36), an absent image as NoImage in every state D19 (log 31). -/
def Obligations.NoOtherWayOutOfARunningState : Prop :=
  ∀ s t : State, s.driver = .debugger → step s = .next t →
    (s.dbg = .runContinue → t.input = s.input ∧
      (t.dbg = .runContinue ∨ (t.dbg = .idle ∧ (t.bank.pc ∈ t.bp ∨ s.image = none)) ∨
        ∃ f, t.dbg = .terminated (.fault f) ∧ cycle s = .fault f)) ∧
    (s.dbg = .runCuni → t.input = s.input ∧
      (t.dbg = .runCuni ∨
        (t.dbg = .idle ∧ ((∃ b a, peek s = .raw b a) ∨ s.image = none ∨
          (Params.cuniHonoursBreakpoints = true ∧ t.bank.pc ∈ t.bp))) ∨
        ∃ f, t.dbg = .terminated (.fault f) ∧ cycle s = .fault f))

/-- `continue-until-not-impl` does not execute the undecodable byte (rule R224): a retired engine at such a byte stops,
idle, with the engine as it was and the byte and address printed. -/
def Obligations.CuniStopsBeforeTheUndecodableByte : Prop :=
  ∀ (s : State) (b : Byte), s.driver = .debugger → s.dbg = .runCuni → s.image ≠ none → s.is.retired = true →
    memRead s s.bank.pc = .ok b → decode b = .unrecognized →
    ∃ t, step s = .next t ∧ t.dbg = .idle ∧ SameEngine s t ∧ t.out = s.out ++ [.raw b s.bank.pc]

/-- Every fault of a `cycle()` call the debugger makes, in `continue`, in `continue-until-not-impl` and in `step`, is
printed and terminates the session, and the engine stays as it was before the call; a parse error never terminates
(rule R238). That the engine stays as it was rests on R150, the choice D11 (log 14); that the terminated state is
absorbing is R242, the spec's inference. -/
def Obligations.FaultTerminatesTheDebugger : Prop :=
  (∀ (s : State) (f : Fault), s.driver = .debugger → cycle s = .fault f →
    (s.dbg = .runContinue ∨ (s.dbg = .runCuni ∧ ∃ x, peek s = .instr x) ∨
      (s.dbg = .idle ∧ ∃ line rest, s.input = line :: rest ∧ parseLine line = .ok .step)) →
    ∃ t, step s = .next t ∧ SameEngine s t ∧ t.dbg = .terminated (.fault f) ∧ t.out = s.out ++ [.fault f] ∧
      step t = .next t) ∧
  ∀ (s : State) (line : Line) (rest : List Line) (e : ParseError), s.driver = .debugger → s.dbg = .idle →
    s.input = line :: rest → parseLine line = .error e → ∃ t, step s = .next t ∧ t.dbg = .idle

/-- A parse error prints its message, changes neither the breakpoint set nor the engine, leaves the debugger idle, and
the line is still pushed to the history (rule R215). -/
def Obligations.ParseErrorChangesNothing : Prop :=
  ∀ (s : State) (line : Line) (rest : List Line) (e : ParseError), s.driver = .debugger → s.dbg = .idle →
    s.input = line :: rest → parseLine line = .error e →
    ∃ t, step s = .next t ∧ t.out = s.out ++ [.parseError e] ∧ t.bp = s.bp ∧ SameEngine s t ∧ t.dbg = .idle ∧
      t.hist = histPush Config.historyCapacity line s.hist

/-- Breakpoint commands (rules R220, R221; the silent no-ops are D30): adding appends unless it is there, removing keeps
the order of the rest, and the set keeps no duplicates. -/
def Obligations.BreakpointSetOperations : Prop :=
  ∀ (bp : List Word) (a : Word), bp.Nodup →
    (a ∈ bp → bpAdd a bp = bp) ∧ (a ∉ bp → bpAdd a bp = bp ++ [a]) ∧
    a ∉ bpRemove a bp ∧ (∀ x, x ≠ a → (x ∈ bpRemove a bp ↔ x ∈ bp)) ∧ (bpRemove a bp).Sublist bp ∧
    (a ∉ bp → bpRemove a bp = bp) ∧ (bpAdd a bp).Nodup ∧ (bpRemove a bp).Nodup

/-- The prefix `0x` is optional (rule R214; the corner cases are D28): a token that does not itself begin with `0x`
parses alike with it, and the value is that of the digits. -/
def Obligations.HexPrefixIsOptional : Prop :=
  (∀ tok : Line, (∀ rest, tok ≠ '0' :: 'x' :: rest) → parseHex ('0' :: 'x' :: tok) = parseHex tok) ∧
  parseHex "0x1A2B".toList = some 0x1A2B#16 ∧ parseHex "1A2B".toList = some 0x1A2B#16 ∧
  parseHex "0001a".toList = some 0x001A#16 ∧ parseHex "10000".toList = none ∧ parseHex "0x".toList = none ∧
  parseHex "0X1A".toList = none ∧ parseHex "-1".toList = none

/-- What `break-list` prints for an address, `break-add` reads back as that address, for every address (rules R214,
R222; D28). -/
def Obligations.PrintedAddressParsesBack : Prop :=
  ∀ a : Word, parseHex (showWord a) = some a ∧ (showWord a).length = 6

/-- Parsing checks the keyword, then the arity, then the address (rule R213, the order D29). -/
def Obligations.ParseErrorsInOrder : Prop :=
  (∀ (tok : Line) (args : List Line), Keyword.ofToken tok = none → parseTokens (tok :: args) = .error .unknownCommand) ∧
  (∀ (k : Keyword) (args : List Line), args.length + 1 ≠ k.arity →
    parseTokens (k.word :: args) = .error .wrongArity) ∧
  (∀ tok : Line, parseHex tok = none →
    parseTokens ["break-add".toList, tok] = .error .badAddress ∧
    parseTokens ["break-remove".toList, tok] = .error .badAddress) ∧
  (∀ (tok : Line) (a : Word), parseHex tok = some a →
    parseTokens ["break-add".toList, tok] = .ok (.breakAdd a) ∧
    parseTokens ["break-remove".toList, tok] = .ok (.breakRemove a))

/-- A line with no space is one token, and a space splits it: empty tokens count (rule R211, D29). -/
def Obligations.EverySpaceSplitsTheLine : Prop :=
  (∀ tok : Line, ' ' ∉ tok → splitSpaces tok = [tok]) ∧
  (∀ tok rest : Line, ' ' ∉ tok → splitSpaces (tok ++ ' ' :: rest) = tok :: splitSpaces rest)

/-- `HistPush` (rule R245): the literal `history` and a line equal to the last entry are not stored; any other line is
appended, and the oldest entry goes when the capacity is passed. -/
def Obligations.HistoryPushContract : Prop :=
  ∀ (cap : Nat) (line : Line) (hist : List Line),
    (line = "history".toList → histPush cap line hist = hist) ∧
    (hist.getLast? = some line → histPush cap line hist = hist) ∧
    (line ≠ "history".toList → hist.getLast? ≠ some line →
      (hist.length + 1 ≤ cap → histPush cap line hist = hist ++ [line]) ∧
      (cap < hist.length + 1 → histPush cap line hist = (hist ++ [line]).drop 1))

/-- The history keeps its bounds for every capacity of at least one (rule R246, the spec's inference). -/
def Obligations.HistoryKeepsItsBounds : Prop :=
  ∀ (cap : Nat) (line : Line) (hist : List Line), 1 ≤ cap → histWf cap hist = true →
    histWf cap (histPush cap line hist) = true

/-- Recall (rule R247): 1 is the most recent entry; an N out of range has no result (U9, log 29). -/
def Obligations.RecallCountsFromTheMostRecent : Prop :=
  ∀ (hist : List Line) (n : Nat),
    (∀ h : 1 ≤ n ∧ n ≤ hist.length, histRecall hist n = some (hist[hist.length - n]'(by omega))) ∧
    (hist ≠ [] → histRecall hist 1 = hist.getLast?) ∧
    (n = 0 ∨ hist.length < n → histRecall hist n = none)

/-- Repeating `break-list`, `registers`, `next`, `help` or `history` prints the same lines again (rule R244), and none
changes the engine or the breakpoint set. -/
def Obligations.DisplaysAreIdempotent : Prop :=
  ∀ (s : State) (l1 l2 : Line) (rest : List Line) (c : Command), s.driver = .debugger → s.dbg = .idle →
    s.input = l1 :: l2 :: rest → c = .breakList ∨ c = .registers ∨ c = .next ∨ c = .help ∨ c = .history →
    parseLine l1 = .ok c → parseLine l2 = .ok c →
    ∃ t u lines, step s = .next t ∧ step t = .next u ∧ t.out = s.out ++ lines ∧ u.out = s.out ++ lines ++ lines ∧
      SameEngine s u ∧ u.bp = s.bp ∧ u.dbg = .idle

/-- The raw line of every command, whether it succeeds, fails, or terminates the session, is pushed once, when the
command ends, but for the literal `history` (rules R216, R245): at once for a parse error and for a command that ends at
once; for `continue` and `continue-until-not-impl`, whose line is the keyword, in the transition that leaves the running
state. `history` prints the entries from before it and pushes nothing; `history` with a trailing space is an error and
is pushed. That commands which terminate push too, and `continue-until-not-impl` at a breakpoint, is log 21; that
NoImage ends a running command is D27 (log 36). -/
def Obligations.EveryCommandLineIsPushed : Prop :=
  (∀ (s t : State), s.driver = .debugger → step s = .next t →
    (∀ line rest, s.dbg = .idle → s.input = line :: rest →
      (parseLine line = .ok .history →
        line = "history".toList ∧ t.hist = s.hist ∧ t.out = s.out ++ historyLines s.hist) ∧
      (parseLine line = .ok .continue_ → line = "continue".toList ∧ t.hist = s.hist ∧ t.dbg = .runContinue) ∧
      (parseLine line = .ok .continueUntilNotImpl →
        line = "continue-until-not-impl".toList ∧ t.hist = s.hist ∧ t.dbg = .runCuni) ∧
      (parseLine line ≠ .ok .history → parseLine line ≠ .ok .continue_ →
        parseLine line ≠ .ok .continueUntilNotImpl →
        t.hist = histPush Config.historyCapacity line s.hist)) ∧
    (s.dbg = .runContinue → t.hist =
      if t.dbg = .runContinue then s.hist else histPush Config.historyCapacity "continue".toList s.hist) ∧
    (s.dbg = .runCuni → t.hist =
      if t.dbg = .runCuni then s.hist
      else histPush Config.historyCapacity "continue-until-not-impl".toList s.hist)) ∧
  parseLine "history ".toList = .error .wrongArity

/-- The frame loop (rules R318, R274): a `Done` call is a step; a fault is printed and ends the loop, with the engine,
the breakpoint set and the history as they were (R150, the choice D11, log 14), and the ended loop calls no more;
`NoImage` goes to the caller and changes nothing. Its state changes in no other way, and never under the debugger. That
it runs at reset is log 46. That an absent image is detected first in every call is D19 (log 31); that NoImage is then
the refusal of that name is log 8 (what the caller does is open, U10). -/
def Obligations.FrameLoopPrintsAFaultAndTerminates : Prop :=
  (∀ s : State, s.driver = .frameLoop → s.frame = .running →
    (∀ f, cycle s = .fault f → ∃ t, step s = .next t ∧ SameEngine s t ∧ t.out = s.out ++ [.fault f] ∧
      t.frame = .terminated f ∧ t.bp = s.bp ∧ t.hist = s.hist ∧ step t = .next t) ∧
    (s.image = none → step s = .refused .noImage)) ∧
  (∀ (s : State) (f : Fault), s.driver = .frameLoop → s.frame = .terminated f → step s = .next s) ∧
  (∀ s t : State, step s = .next t → t.frame = s.frame ∨
    ∃ f, s.driver = .frameLoop ∧ s.frame = .running ∧ cycle s = .fault f ∧ t.frame = .terminated f)
end

