-- ==== Sys2Proof/Laws/Bank.lean ====
section
/-! SUPPORT. Laws of the Register Bank: what a read sees after a write, the pair views, the flags. -/

namespace Sys2Proof.Machine

@[simp] theorem RegBank.set_pc (b : RegBank) (r : Reg8) (v : Byte) : (b.set r v).pc = b.pc := by cases r <;> rfl
@[simp] theorem RegBank.set_sp (b : RegBank) (r : Reg8) (v : Byte) : (b.set r v).sp = b.sp := by cases r <;> rfl

/-- A write to F stores the masked byte (rule R24). -/
theorem RegBank.get_set_F (b : RegBank) (v : Byte) : (b.set .F v).get .F = maskF v := rfl

/-- A write to any other register stores the byte. -/
theorem RegBank.get_set_same (b : RegBank) {r : Reg8} (h : r ≠ .F) (v : Byte) : (b.set r v).get r = v := by
  cases r <;> first | rfl | exact absurd rfl h

/-- A write to one register leaves every other. -/
theorem RegBank.get_set_other (b : RegBank) {r q : Reg8} (h : q ≠ r) (v : Byte) : (b.set r v).get q = b.get q := by
  cases r <;> cases q <;> first | rfl | exact absurd rfl h

/-- No instruction can name F (rule R115). -/
@[simp] theorem OpReg.reg_ne_F (r : OpReg) : r.reg ≠ .F := by cases r <;> decide

/-- A write to an operand register leaves F. -/
@[simp] theorem RegBank.set_reg_f (b : RegBank) (r : OpReg) (v : Byte) : (b.set r.reg v).f = b.f := by
  cases r <;> rfl

/-- Writing back what a register other than F holds changes nothing. -/
theorem RegBank.set_get_self (b : RegBank) (r : OpReg) : b.set r.reg (b.get r.reg) = b := by cases r <;> rfl

@[simp] theorem joinBytes_toNat (h l : Byte) : (joinBytes h l).toNat = h.toNat * 256 + l.toNat := by
  have hh := h.isLt
  have hl := l.isLt
  simp only [joinBytes, BitVec.toNat_ofNat]
  omega

@[simp] theorem hiByte_toNat (w : Word) : (hiByte w).toNat = w.toNat / 256 := by
  have hw := w.isLt
  simp only [hiByte, BitVec.extractLsb'_toNat, Nat.shiftRight_eq_div_pow]
  omega

@[simp] theorem loByte_toNat (w : Word) : (loByte w).toNat = w.toNat % 256 := by
  simp [loByte, BitVec.extractLsb'_toNat]

/-- The high byte of a joined word. -/
@[simp] theorem hiByte_joinBytes (h l : Byte) : hiByte (joinBytes h l) = h := by
  have hl := l.isLt
  apply BitVec.eq_of_toNat_eq
  rw [hiByte_toNat, joinBytes_toNat]
  omega

/-- The low byte of a joined word. -/
@[simp] theorem loByte_joinBytes (h l : Byte) : loByte (joinBytes h l) = l := by
  have hl := l.isLt
  apply BitVec.eq_of_toNat_eq
  rw [loByte_toNat, joinBytes_toNat]
  omega

/-- A word is its two bytes joined. -/
@[simp] theorem joinBytes_hiByte_loByte (w : Word) : joinBytes (hiByte w) (loByte w) = w := by
  apply BitVec.eq_of_toNat_eq
  rw [joinBytes_toNat, hiByte_toNat, loByte_toNat]
  omega

/-- Masking is idempotent: F already stores the masked form (rule R24). -/
@[simp] theorem maskF_maskF (v : Byte) : maskF (maskF v) = maskF v := by
  simp [maskF, BitVec.and_assoc]

/-- The masked form has its low four bits zero (rule R24). -/
@[simp] theorem maskF_low (v : Byte) : maskF v &&& 0x0F#8 = 0x00#8 := by
  simp [maskF, BitVec.and_assoc]

end Sys2Proof.Machine
end

