-- ==== Sys2Proof/Laws/Memory.lean ====
section
/-! SUPPORT. Laws of memory: read after write, and that a write keeps the canonical form. -/

namespace Sys2Proof.Machine

@[simp] theorem Memory.read_nil (a : Nat) : Memory.read [] a = Params.unlistedByte := rfl

theorem Memory.read_cons (k : Nat) (v : Byte) (m : Memory) (a : Nat) :
    Memory.read ((k, v) :: m) a = if k = a then v else Memory.read m a := rfl

/-- Below the lower bound of a canonical memory every address is unlisted. -/
theorem Memory.read_below {m : Memory} {lo a : Nat} (h : Memory.wfFrom lo m = true) (ha : a < lo) :
    Memory.read m a = Params.unlistedByte := by
  induction m generalizing lo with
  | nil => rfl
  | cons c m ih =>
    obtain ⟨k, v⟩ := c
    simp only [Memory.wfFrom, Bool.and_eq_true, decide_eq_true_eq] at h
    rw [Memory.read_cons, if_neg (by omega)]
    exact ih h.2 (by omega)

/-- A lower bound may be lowered. -/
theorem Memory.wfFrom_mono {m : Memory} {lo lo' : Nat} (h : Memory.wfFrom lo m = true) (hl : lo' ≤ lo) :
    Memory.wfFrom lo' m = true := by
  cases m with
  | nil => rfl
  | cons c m =>
    obtain ⟨k, v⟩ := c
    simp only [Memory.wfFrom, Bool.and_eq_true, decide_eq_true_eq] at h ⊢
    exact ⟨⟨by omega, h.1.2⟩, h.2⟩

theorem Memory.wfFrom_put {m : Memory} {a : Nat} {v : Byte} (h : Memory.wfFrom (a + 1) m = true) :
    Memory.wfFrom a (Memory.put a v m) = true := by
  unfold Memory.put
  split
  · exact Memory.wfFrom_mono h (by omega)
  · next hv => simp [Memory.wfFrom, hv, h]

theorem Memory.wfFrom_write {m : Memory} {lo a : Nat} (v : Byte) (h : Memory.wfFrom lo m = true) (ha : lo ≤ a) :
    Memory.wfFrom lo (Memory.write m a v) = true := by
  induction m generalizing lo with
  | nil => exact Memory.wfFrom_mono (Memory.wfFrom_put (by rfl)) ha
  | cons c m ih =>
    obtain ⟨k, x⟩ := c
    have h0 := h
    simp only [Memory.wfFrom, Bool.and_eq_true, decide_eq_true_eq] at h
    unfold Memory.write
    split
    · next hk =>
      refine Memory.wfFrom_mono (Memory.wfFrom_put ?_) ha
      simp only [Memory.wfFrom, Bool.and_eq_true, decide_eq_true_eq]
      exact ⟨⟨by omega, h.1.2⟩, h.2⟩
    · split
      · next hk hk' => subst hk'; exact Memory.wfFrom_mono (Memory.wfFrom_put h.2) ha
      · next hk hk' =>
        simp only [Memory.wfFrom, Bool.and_eq_true, decide_eq_true_eq]
        exact ⟨h.1, ih h.2 (by omega)⟩

/-- A write keeps the canonical form. -/
theorem Memory.wf_write {m : Memory} (h : m.wf = true) (a : Nat) (v : Byte) : (Memory.write m a v).wf = true :=
  Memory.wfFrom_write v h (Nat.zero_le a)

/-- The memory at reset is canonical. -/
theorem Memory.wf_reset : State.reset.mem.wf = true := rfl

theorem Memory.read_put_same {m : Memory} {a : Nat} {v : Byte} (h : Memory.read m a = Params.unlistedByte) :
    Memory.read (Memory.put a v m) a = v := by
  unfold Memory.put
  split
  · next hv => rw [h, hv]
  · simp [Memory.read_cons]

theorem Memory.read_put_other {m : Memory} {a x : Nat} {v : Byte} (h : x ≠ a) :
    Memory.read (Memory.put a v m) x = Memory.read m x := by
  unfold Memory.put
  split
  · rfl
  · rw [Memory.read_cons, if_neg (Ne.symm h)]

theorem Memory.read_write_same_from {m : Memory} {lo a : Nat} {v : Byte} (h : Memory.wfFrom lo m = true) :
    Memory.read (Memory.write m a v) a = v := by
  induction m generalizing lo with
  | nil => exact Memory.read_put_same rfl
  | cons c m ih =>
    obtain ⟨k, x⟩ := c
    simp only [Memory.wfFrom, Bool.and_eq_true, decide_eq_true_eq] at h
    unfold Memory.write
    split
    · next hk =>
      apply Memory.read_put_same
      rw [Memory.read_cons, if_neg (by omega)]
      exact Memory.read_below h.2 (by omega)
    · split
      · next hk hk' => subst hk'; exact Memory.read_put_same (Memory.read_below h.2 (by omega))
      · next hk hk' => rw [Memory.read_cons, if_neg (Ne.symm hk')]; exact ih h.2

/-- A read after a write to the same address gives the byte written. -/
theorem Memory.read_write_same {m : Memory} (h : m.wf = true) (a : Nat) (v : Byte) :
    Memory.read (Memory.write m a v) a = v := Memory.read_write_same_from h

/-- A write leaves every other address alone. -/
theorem Memory.read_write_other {a x : Nat} (h : x ≠ a) (m : Memory) (v : Byte) :
    Memory.read (Memory.write m a v) x = Memory.read m x := by
  induction m with
  | nil => exact Memory.read_put_other h
  | cons c m ih =>
    obtain ⟨k, y⟩ := c
    unfold Memory.write
    split
    · exact Memory.read_put_other h
    · split
      · next hk hk' => subst hk'; rw [Memory.read_put_other h, Memory.read_cons, if_neg (Ne.symm h)]
      · next hk hk' => simp only [Memory.read_cons, ih]

theorem Memory.keysIn_write {p : Nat → Bool} {m : Memory} (h : Memory.keysIn p m = true) {a : Nat}
    (ha : p a = true) (v : Byte) : Memory.keysIn p (Memory.write m a v) = true := by
  have put : ∀ n : Memory, Memory.keysIn p n = true → Memory.keysIn p (Memory.put a v n) = true := by
    intro n hn
    unfold Memory.put
    split
    · exact hn
    · simpa [Memory.keysIn, ha] using hn
  induction m with
  | nil => exact put [] rfl
  | cons c m ih =>
    obtain ⟨k, x⟩ := c
    have hm : Memory.keysIn p m = true := by
      simp only [Memory.keysIn, List.all_cons, Bool.and_eq_true] at h
      exact h.2
    unfold Memory.write
    split
    · exact put _ h
    · split
      · exact put _ hm
      · have h1 := ih hm
        simp only [Memory.keysIn, List.all_cons, Bool.and_eq_true] at h h1 ⊢
        exact ⟨h.1, h1⟩

/-- Two canonical memories that read alike everywhere are the same list. -/
theorem Memory.ext_of_wfFrom {m n : Memory} {lo : Nat} (hm : Memory.wfFrom lo m = true)
    (hn : Memory.wfFrom lo n = true) (h : ∀ a, Memory.read m a = Memory.read n a) : m = n := by
  induction m generalizing n lo with
  | nil =>
    cases n with
    | nil => rfl
    | cons c n =>
      obtain ⟨k, v⟩ := c
      simp only [Memory.wfFrom, Bool.and_eq_true, decide_eq_true_eq] at hn
      have := h k
      rw [Memory.read_cons, if_pos rfl] at this
      exact absurd this.symm hn.1.2
  | cons c m ih =>
    obtain ⟨k, v⟩ := c
    simp only [Memory.wfFrom, Bool.and_eq_true, decide_eq_true_eq] at hm
    cases n with
    | nil =>
      have := h k
      rw [Memory.read_cons, if_pos rfl] at this
      exact absurd this hm.1.2
    | cons c' n =>
      obtain ⟨k', v'⟩ := c'
      simp only [Memory.wfFrom, Bool.and_eq_true, decide_eq_true_eq] at hn
      have hk : k = k' := by
        rcases Nat.lt_trichotomy k k' with hlt | heq | hgt
        · have := h k
          rw [Memory.read_cons, if_pos rfl, Memory.read_cons, if_neg (by omega),
            Memory.read_below hn.2 (by omega)] at this
          exact absurd this hm.1.2
        · exact heq
        · have := h k'
          rw [Memory.read_cons, if_neg (by omega), Memory.read_below hm.2 (by omega), Memory.read_cons,
            if_pos rfl] at this
          exact absurd this.symm hn.1.2
      subst hk
      have hv : v = v' := by simpa [Memory.read_cons] using h k
      subst hv
      congr 1
      refine ih hm.2 hn.2 fun a => ?_
      rcases Nat.lt_or_ge a (k + 1) with ha | ha
      · rw [Memory.read_below hm.2 ha, Memory.read_below hn.2 ha]
      · have := h a
        rwa [Memory.read_cons, if_neg (by omega), Memory.read_cons, if_neg (by omega)] at this

end Sys2Proof.Machine
end

