-- ==== Sys2Proof/Laws/Regions.lean ====
section
/-! SUPPORT. Laws of the address space: `classify` as comparisons of the address, and the cell behind an address. -/

namespace Sys2Proof.Machine

/-- Past the first range's start only its end decides. -/
theorem classifyIn_cons {r : RegionRange} {rs : List RegionRange} {a : Nat} (h : r.first ≤ a) :
    classifyIn (r :: rs) a = if a ≤ r.last then r.kind else classifyIn rs a := by
  simp [classifyIn, RegionRange.holds, h]

/-- `classify` as the chain of upper bounds of the default map (rule R62). -/
theorem classify_eq (a : Word) :
    classify a =
      if a.toNat ≤ 0x3FFF then .ROM0
      else if a.toNat ≤ 0x7FFF then .ROMX
      else if a.toNat ≤ 0x9FFF then .VRAM
      else if a.toNat ≤ 0xBFFF then .EXTRAM
      else if a.toNat ≤ 0xDFFF then .WRAM
      else if a.toNat ≤ 0xFDFF then .ECHO
      else if a.toNat ≤ 0xFE9F then .OAM
      else if a.toNat ≤ 0xFEFF then .GAP
      else if a.toNat ≤ 0xFF7F then .IO
      else if a.toNat ≤ 0xFFFE then .HRAM
      else .IE := by
  have hlt := a.isLt
  rw [classify, regionMap, classifyIn_cons (Nat.zero_le _)]
  refine ite_congr rfl (fun _ => rfl) fun h => ?_
  rw [classifyIn_cons (by show 0x4000 ≤ _; omega)]
  refine ite_congr rfl (fun _ => rfl) fun h => ?_
  rw [classifyIn_cons (by show 0x8000 ≤ _; omega)]
  refine ite_congr rfl (fun _ => rfl) fun h => ?_
  rw [classifyIn_cons (by show 0xA000 ≤ _; omega)]
  refine ite_congr rfl (fun _ => rfl) fun h => ?_
  rw [classifyIn_cons (by show 0xC000 ≤ _; omega)]
  refine ite_congr rfl (fun _ => rfl) fun h => ?_
  rw [classifyIn_cons (by show 0xE000 ≤ _; omega)]
  refine ite_congr rfl (fun _ => rfl) fun h => ?_
  rw [classifyIn_cons (by show 0xFE00 ≤ _; omega)]
  refine ite_congr rfl (fun _ => rfl) fun h => ?_
  rw [classifyIn_cons (by show 0xFEA0 ≤ _; omega)]
  refine ite_congr rfl (fun _ => rfl) fun h => ?_
  rw [classifyIn_cons (by show 0xFF00 ≤ _; omega)]
  refine ite_congr rfl (fun _ => rfl) fun h => ?_
  rw [classifyIn_cons (by show 0xFF80 ≤ _; omega)]
  refine ite_congr rfl (fun _ => rfl) fun h => ?_
  rw [classifyIn_cons (by show 0xFFFF ≤ _; omega)]
  exact if_pos (by show _ ≤ 0xFFFF; omega)

/-- The default map keeps rule R63: contiguous ranges, no overlap, no gap. -/
theorem regionMap_covers : RegionMap.coversFrom 0 regionMap = true := by decide

/-- A map that keeps rule R63 has a range that holds each address and gives it its kind. -/
theorem classifyIn_range {rs : List RegionRange} {lo a : Nat} (h : RegionMap.coversFrom lo rs = true) (hl : lo ≤ a)
    (ha : a < 0x10000) : ∃ r ∈ rs, r.first ≤ a ∧ a ≤ r.last ∧ classifyIn rs a = r.kind := by
  induction rs generalizing lo with
  | nil => simp only [RegionMap.coversFrom, beq_iff_eq] at h; omega
  | cons r rs ih =>
    simp only [RegionMap.coversFrom, Bool.and_eq_true, beq_iff_eq, decide_eq_true_eq] at h
    rw [classifyIn_cons (by omega)]
    by_cases hr : a ≤ r.last
    · exact ⟨r, by simp, by omega, hr, if_pos hr⟩
    · obtain ⟨q, hq, h1, h2, h3⟩ := ih h.2 (by omega)
      exact ⟨q, by simp [hq], h1, h2, by rw [if_neg hr]; exact h3⟩

/-- The range of the default map that holds an address. -/
theorem classify_range (a : Word) : ∃ r ∈ regionMap, r.first ≤ a.toNat ∧ a.toNat ≤ r.last ∧ classify a = r.kind :=
  classifyIn_range regionMap_covers (Nat.zero_le _) a.isLt

/-- Two ranges of the default map are the same or do not meet. -/
theorem regionMap_disjoint : ∀ r ∈ regionMap, ∀ q ∈ regionMap, r = q ∨ r.last < q.first ∨ q.last < r.first := by
  decide

/-- An address is at or above the base of its region (rule R66). -/
theorem regionBase_le (a : Word) : regionBase (classify a) ≤ a.toNat := by
  rw [classify_eq]
  split_ifs <;> simp only [regionBase] <;> omega

/-- The cell behind a storage-backed address is the address itself. -/
theorem storageKey_localIndex (a : Word) : storageKey (classify a) (localIndex a) = a.toNat := by
  have := regionBase_le a
  unfold storageKey localIndex
  omega

/-- The cell behind an echo address is the working-RAM address 0x2000 below (rule R71). -/
theorem storageKey_echo (a : Word) (h : classify a = .ECHO) :
    storageKey .WRAM (localIndex a) = a.toNat - 0x2000 := by
  have hb := regionBase_le a
  rw [h] at hb
  simp only [regionBase] at hb
  simp only [storageKey, localIndex, h, regionBase]
  omega

theorem storageCell_of_storage {a : Word} (h : backing (classify a) = .storage) : storageCell a = some a.toNat := by
  simp [storageCell, h, storageKey_localIndex]

/-- Only the echo is a mirror (rule R70). -/
theorem eq_echo_of_mirror {r : Region} (h : backing r = .mirror) : r = .ECHO := by
  cases r <;> simp [backing] at h ⊢

/-- Only the ROM kinds show the image (rule R70). -/
theorem eq_rom_of_image {r : Region} (h : backing r = .image) : r = .ROM0 ∨ r = .ROMX := by
  cases r <;> simp [backing] at h ⊢

theorem storageCell_of_echo {a : Word} (h : classify a = .ECHO) : storageCell a = some (a.toNat - 0x2000) := by
  simp [storageCell, h, backing, storageKey_echo]

/-- The two ways an address has a cell: its own array's, or working RAM's for the echo. -/
theorem storageCell_some {a : Word} {k : Nat} (h : storageCell a = some k) :
    (backing (classify a) = .storage ∧ k = a.toNat) ∨ (classify a = .ECHO ∧ k = a.toNat - 0x2000) := by
  cases hb : backing (classify a) with
  | storage => rw [storageCell_of_storage hb] at h; exact .inl ⟨rfl, (Option.some.inj h).symm⟩
  | mirror =>
    have hc := eq_echo_of_mirror hb
    rw [storageCell_of_echo hc] at h
    exact .inr ⟨hc, (Option.some.inj h).symm⟩
  | image => simp [storageCell, hb] at h
  | placeholder => simp [storageCell, hb] at h
  | nothing => simp [storageCell, hb] at h

/-- A kind with plain storage is readable and writable. -/
theorem policies_of_storage {r : Region} (h : backing r = .storage) :
    readPolicy r = .readable ∧ writePolicy r = .writable := by
  cases r <;> simp [backing, readPolicy, writePolicy] at h ⊢

/-- A writable kind has storage or is a placeholder (rules R65, R70, R74). -/
theorem backing_of_writable {r : Region} (h : writePolicy r = .writable) :
    backing r = .storage ∨ backing r = .placeholder := by
  cases r <;> simp [backing, writePolicy] at h ⊢

end Sys2Proof.Machine
end

