-- ==== Sys2Proof/Laws/State.lean ====
section
/-! SUPPORT. One lemma per field per update of the state, true by rfl, so that no later proof unfolds a record update. -/

namespace Sys2Proof.Machine

/-! ## setPc -/

@[simp] theorem State.setPc_bank (s : State) (w : Word) : (s.setPc w).bank = { s.bank with pc := w } := rfl
@[simp] theorem State.setPc_is (s : State) (w : Word) : (s.setPc w).is = s.is := rfl
@[simp] theorem State.setPc_mem (s : State) (w : Word) : (s.setPc w).mem = s.mem := rfl
@[simp] theorem State.setPc_image (s : State) (w : Word) : (s.setPc w).image = s.image := rfl
@[simp] theorem State.setPc_driver (s : State) (w : Word) : (s.setPc w).driver = s.driver := rfl
@[simp] theorem State.setPc_frame (s : State) (w : Word) : (s.setPc w).frame = s.frame := rfl
@[simp] theorem State.setPc_dbg (s : State) (w : Word) : (s.setPc w).dbg = s.dbg := rfl
@[simp] theorem State.setPc_bp (s : State) (w : Word) : (s.setPc w).bp = s.bp := rfl
@[simp] theorem State.setPc_hist (s : State) (w : Word) : (s.setPc w).hist = s.hist := rfl
@[simp] theorem State.setPc_exitRequested (s : State) (w : Word) : (s.setPc w).exitRequested = s.exitRequested := rfl
@[simp] theorem State.setPc_input (s : State) (w : Word) : (s.setPc w).input = s.input := rfl
@[simp] theorem State.setPc_out (s : State) (w : Word) : (s.setPc w).out = s.out := rfl

/-! ## advancePc -/

@[simp] theorem State.advancePc_bank (s : State) : s.advancePc.bank = { s.bank with pc := s.bank.pc + 1#16 } := rfl
@[simp] theorem State.advancePc_is (s : State) : s.advancePc.is = s.is := rfl
@[simp] theorem State.advancePc_mem (s : State) : s.advancePc.mem = s.mem := rfl
@[simp] theorem State.advancePc_image (s : State) : s.advancePc.image = s.image := rfl
@[simp] theorem State.advancePc_driver (s : State) : s.advancePc.driver = s.driver := rfl
@[simp] theorem State.advancePc_frame (s : State) : s.advancePc.frame = s.frame := rfl
@[simp] theorem State.advancePc_dbg (s : State) : s.advancePc.dbg = s.dbg := rfl
@[simp] theorem State.advancePc_bp (s : State) : s.advancePc.bp = s.bp := rfl
@[simp] theorem State.advancePc_hist (s : State) : s.advancePc.hist = s.hist := rfl
@[simp] theorem State.advancePc_exitRequested (s : State) : s.advancePc.exitRequested = s.exitRequested := rfl
@[simp] theorem State.advancePc_input (s : State) : s.advancePc.input = s.input := rfl
@[simp] theorem State.advancePc_out (s : State) : s.advancePc.out = s.out := rfl

/-! ## setReg -/

@[simp] theorem State.setReg_bank (s : State) (r : Reg8) (v : Byte) : (s.setReg r v).bank = s.bank.set r v := rfl
@[simp] theorem State.setReg_is (s : State) (r : Reg8) (v : Byte) : (s.setReg r v).is = s.is := rfl
@[simp] theorem State.setReg_mem (s : State) (r : Reg8) (v : Byte) : (s.setReg r v).mem = s.mem := rfl
@[simp] theorem State.setReg_image (s : State) (r : Reg8) (v : Byte) : (s.setReg r v).image = s.image := rfl
@[simp] theorem State.setReg_driver (s : State) (r : Reg8) (v : Byte) : (s.setReg r v).driver = s.driver := rfl
@[simp] theorem State.setReg_frame (s : State) (r : Reg8) (v : Byte) : (s.setReg r v).frame = s.frame := rfl
@[simp] theorem State.setReg_dbg (s : State) (r : Reg8) (v : Byte) : (s.setReg r v).dbg = s.dbg := rfl
@[simp] theorem State.setReg_bp (s : State) (r : Reg8) (v : Byte) : (s.setReg r v).bp = s.bp := rfl
@[simp] theorem State.setReg_hist (s : State) (r : Reg8) (v : Byte) : (s.setReg r v).hist = s.hist := rfl
@[simp] theorem State.setReg_exitRequested (s : State) (r : Reg8) (v : Byte) : (s.setReg r v).exitRequested = s.exitRequested := rfl
@[simp] theorem State.setReg_input (s : State) (r : Reg8) (v : Byte) : (s.setReg r v).input = s.input := rfl
@[simp] theorem State.setReg_out (s : State) (r : Reg8) (v : Byte) : (s.setReg r v).out = s.out := rfl

/-! ## setOp1 -/

@[simp] theorem State.setOp1_bank (s : State) (v : Byte) : (s.setOp1 v).bank = s.bank := rfl
@[simp] theorem State.setOp1_is (s : State) (v : Byte) : (s.setOp1 v).is = { s.is with op1 := v } := rfl
@[simp] theorem State.setOp1_mem (s : State) (v : Byte) : (s.setOp1 v).mem = s.mem := rfl
@[simp] theorem State.setOp1_image (s : State) (v : Byte) : (s.setOp1 v).image = s.image := rfl
@[simp] theorem State.setOp1_driver (s : State) (v : Byte) : (s.setOp1 v).driver = s.driver := rfl
@[simp] theorem State.setOp1_frame (s : State) (v : Byte) : (s.setOp1 v).frame = s.frame := rfl
@[simp] theorem State.setOp1_dbg (s : State) (v : Byte) : (s.setOp1 v).dbg = s.dbg := rfl
@[simp] theorem State.setOp1_bp (s : State) (v : Byte) : (s.setOp1 v).bp = s.bp := rfl
@[simp] theorem State.setOp1_hist (s : State) (v : Byte) : (s.setOp1 v).hist = s.hist := rfl
@[simp] theorem State.setOp1_exitRequested (s : State) (v : Byte) : (s.setOp1 v).exitRequested = s.exitRequested := rfl
@[simp] theorem State.setOp1_input (s : State) (v : Byte) : (s.setOp1 v).input = s.input := rfl
@[simp] theorem State.setOp1_out (s : State) (v : Byte) : (s.setOp1 v).out = s.out := rfl

/-! ## setOp2 -/

@[simp] theorem State.setOp2_bank (s : State) (v : Byte) : (s.setOp2 v).bank = s.bank := rfl
@[simp] theorem State.setOp2_is (s : State) (v : Byte) : (s.setOp2 v).is = { s.is with op2 := v } := rfl
@[simp] theorem State.setOp2_mem (s : State) (v : Byte) : (s.setOp2 v).mem = s.mem := rfl
@[simp] theorem State.setOp2_image (s : State) (v : Byte) : (s.setOp2 v).image = s.image := rfl
@[simp] theorem State.setOp2_driver (s : State) (v : Byte) : (s.setOp2 v).driver = s.driver := rfl
@[simp] theorem State.setOp2_frame (s : State) (v : Byte) : (s.setOp2 v).frame = s.frame := rfl
@[simp] theorem State.setOp2_dbg (s : State) (v : Byte) : (s.setOp2 v).dbg = s.dbg := rfl
@[simp] theorem State.setOp2_bp (s : State) (v : Byte) : (s.setOp2 v).bp = s.bp := rfl
@[simp] theorem State.setOp2_hist (s : State) (v : Byte) : (s.setOp2 v).hist = s.hist := rfl
@[simp] theorem State.setOp2_exitRequested (s : State) (v : Byte) : (s.setOp2 v).exitRequested = s.exitRequested := rfl
@[simp] theorem State.setOp2_input (s : State) (v : Byte) : (s.setOp2 v).input = s.input := rfl
@[simp] theorem State.setOp2_out (s : State) (v : Byte) : (s.setOp2 v).out = s.out := rfl

/-! ## install -/

@[simp] theorem State.install_bank (s : State) (i : Instr) : (s.install i).bank = s.bank := rfl
@[simp] theorem State.install_is (s : State) (i : Instr) : (s.install i).is = .fresh i := rfl
@[simp] theorem State.install_mem (s : State) (i : Instr) : (s.install i).mem = s.mem := rfl
@[simp] theorem State.install_image (s : State) (i : Instr) : (s.install i).image = s.image := rfl
@[simp] theorem State.install_driver (s : State) (i : Instr) : (s.install i).driver = s.driver := rfl
@[simp] theorem State.install_frame (s : State) (i : Instr) : (s.install i).frame = s.frame := rfl
@[simp] theorem State.install_dbg (s : State) (i : Instr) : (s.install i).dbg = s.dbg := rfl
@[simp] theorem State.install_bp (s : State) (i : Instr) : (s.install i).bp = s.bp := rfl
@[simp] theorem State.install_hist (s : State) (i : Instr) : (s.install i).hist = s.hist := rfl
@[simp] theorem State.install_exitRequested (s : State) (i : Instr) : (s.install i).exitRequested = s.exitRequested := rfl
@[simp] theorem State.install_input (s : State) (i : Instr) : (s.install i).input = s.input := rfl
@[simp] theorem State.install_out (s : State) (i : Instr) : (s.install i).out = s.out := rfl

/-! ## tick -/

@[simp] theorem State.tick_bank (s : State) : s.tick.bank = s.bank := rfl
@[simp] theorem State.tick_is (s : State) : s.tick.is = { s.is with counter := s.is.counter + 1 } := rfl
@[simp] theorem State.tick_mem (s : State) : s.tick.mem = s.mem := rfl
@[simp] theorem State.tick_image (s : State) : s.tick.image = s.image := rfl
@[simp] theorem State.tick_driver (s : State) : s.tick.driver = s.driver := rfl
@[simp] theorem State.tick_frame (s : State) : s.tick.frame = s.frame := rfl
@[simp] theorem State.tick_dbg (s : State) : s.tick.dbg = s.dbg := rfl
@[simp] theorem State.tick_bp (s : State) : s.tick.bp = s.bp := rfl
@[simp] theorem State.tick_hist (s : State) : s.tick.hist = s.hist := rfl
@[simp] theorem State.tick_exitRequested (s : State) : s.tick.exitRequested = s.exitRequested := rfl
@[simp] theorem State.tick_input (s : State) : s.tick.input = s.input := rfl
@[simp] theorem State.tick_out (s : State) : s.tick.out = s.out := rfl

/-! ## writeCell -/

@[simp] theorem State.writeCell_bank (s : State) (k : Nat) (v : Byte) : (s.writeCell k v).bank = s.bank := rfl
@[simp] theorem State.writeCell_is (s : State) (k : Nat) (v : Byte) : (s.writeCell k v).is = s.is := rfl
@[simp] theorem State.writeCell_mem (s : State) (k : Nat) (v : Byte) : (s.writeCell k v).mem = s.mem.write k v := rfl
@[simp] theorem State.writeCell_image (s : State) (k : Nat) (v : Byte) : (s.writeCell k v).image = s.image := rfl
@[simp] theorem State.writeCell_driver (s : State) (k : Nat) (v : Byte) : (s.writeCell k v).driver = s.driver := rfl
@[simp] theorem State.writeCell_frame (s : State) (k : Nat) (v : Byte) : (s.writeCell k v).frame = s.frame := rfl
@[simp] theorem State.writeCell_dbg (s : State) (k : Nat) (v : Byte) : (s.writeCell k v).dbg = s.dbg := rfl
@[simp] theorem State.writeCell_bp (s : State) (k : Nat) (v : Byte) : (s.writeCell k v).bp = s.bp := rfl
@[simp] theorem State.writeCell_hist (s : State) (k : Nat) (v : Byte) : (s.writeCell k v).hist = s.hist := rfl
@[simp] theorem State.writeCell_exitRequested (s : State) (k : Nat) (v : Byte) : (s.writeCell k v).exitRequested = s.exitRequested := rfl
@[simp] theorem State.writeCell_input (s : State) (k : Nat) (v : Byte) : (s.writeCell k v).input = s.input := rfl
@[simp] theorem State.writeCell_out (s : State) (k : Nat) (v : Byte) : (s.writeCell k v).out = s.out := rfl

/-! ## print -/

@[simp] theorem State.print_bank (s : State) (o : List Output) : (s.print o).bank = s.bank := rfl
@[simp] theorem State.print_is (s : State) (o : List Output) : (s.print o).is = s.is := rfl
@[simp] theorem State.print_mem (s : State) (o : List Output) : (s.print o).mem = s.mem := rfl
@[simp] theorem State.print_image (s : State) (o : List Output) : (s.print o).image = s.image := rfl
@[simp] theorem State.print_driver (s : State) (o : List Output) : (s.print o).driver = s.driver := rfl
@[simp] theorem State.print_frame (s : State) (o : List Output) : (s.print o).frame = s.frame := rfl
@[simp] theorem State.print_dbg (s : State) (o : List Output) : (s.print o).dbg = s.dbg := rfl
@[simp] theorem State.print_bp (s : State) (o : List Output) : (s.print o).bp = s.bp := rfl
@[simp] theorem State.print_hist (s : State) (o : List Output) : (s.print o).hist = s.hist := rfl
@[simp] theorem State.print_exitRequested (s : State) (o : List Output) : (s.print o).exitRequested = s.exitRequested := rfl
@[simp] theorem State.print_input (s : State) (o : List Output) : (s.print o).input = s.input := rfl
@[simp] theorem State.print_out (s : State) (o : List Output) : (s.print o).out = s.out ++ o := rfl

/-! ## setDbg -/

@[simp] theorem State.setDbg_bank (s : State) (d : DbgState) : (s.setDbg d).bank = s.bank := rfl
@[simp] theorem State.setDbg_is (s : State) (d : DbgState) : (s.setDbg d).is = s.is := rfl
@[simp] theorem State.setDbg_mem (s : State) (d : DbgState) : (s.setDbg d).mem = s.mem := rfl
@[simp] theorem State.setDbg_image (s : State) (d : DbgState) : (s.setDbg d).image = s.image := rfl
@[simp] theorem State.setDbg_driver (s : State) (d : DbgState) : (s.setDbg d).driver = s.driver := rfl
@[simp] theorem State.setDbg_frame (s : State) (d : DbgState) : (s.setDbg d).frame = s.frame := rfl
@[simp] theorem State.setDbg_dbg (s : State) (d : DbgState) : (s.setDbg d).dbg = d := rfl
@[simp] theorem State.setDbg_bp (s : State) (d : DbgState) : (s.setDbg d).bp = s.bp := rfl
@[simp] theorem State.setDbg_hist (s : State) (d : DbgState) : (s.setDbg d).hist = s.hist := rfl
@[simp] theorem State.setDbg_exitRequested (s : State) (d : DbgState) : (s.setDbg d).exitRequested = s.exitRequested := rfl
@[simp] theorem State.setDbg_input (s : State) (d : DbgState) : (s.setDbg d).input = s.input := rfl
@[simp] theorem State.setDbg_out (s : State) (d : DbgState) : (s.setDbg d).out = s.out := rfl

/-! ## setBp -/

@[simp] theorem State.setBp_bank (s : State) (b : List Word) : (s.setBp b).bank = s.bank := rfl
@[simp] theorem State.setBp_is (s : State) (b : List Word) : (s.setBp b).is = s.is := rfl
@[simp] theorem State.setBp_mem (s : State) (b : List Word) : (s.setBp b).mem = s.mem := rfl
@[simp] theorem State.setBp_image (s : State) (b : List Word) : (s.setBp b).image = s.image := rfl
@[simp] theorem State.setBp_driver (s : State) (b : List Word) : (s.setBp b).driver = s.driver := rfl
@[simp] theorem State.setBp_frame (s : State) (b : List Word) : (s.setBp b).frame = s.frame := rfl
@[simp] theorem State.setBp_dbg (s : State) (b : List Word) : (s.setBp b).dbg = s.dbg := rfl
@[simp] theorem State.setBp_bp (s : State) (b : List Word) : (s.setBp b).bp = b := rfl
@[simp] theorem State.setBp_hist (s : State) (b : List Word) : (s.setBp b).hist = s.hist := rfl
@[simp] theorem State.setBp_exitRequested (s : State) (b : List Word) : (s.setBp b).exitRequested = s.exitRequested := rfl
@[simp] theorem State.setBp_input (s : State) (b : List Word) : (s.setBp b).input = s.input := rfl
@[simp] theorem State.setBp_out (s : State) (b : List Word) : (s.setBp b).out = s.out := rfl

/-! ## raiseExit -/

@[simp] theorem State.raiseExit_bank (s : State) : s.raiseExit.bank = s.bank := rfl
@[simp] theorem State.raiseExit_is (s : State) : s.raiseExit.is = s.is := rfl
@[simp] theorem State.raiseExit_mem (s : State) : s.raiseExit.mem = s.mem := rfl
@[simp] theorem State.raiseExit_image (s : State) : s.raiseExit.image = s.image := rfl
@[simp] theorem State.raiseExit_driver (s : State) : s.raiseExit.driver = s.driver := rfl
@[simp] theorem State.raiseExit_frame (s : State) : s.raiseExit.frame = s.frame := rfl
@[simp] theorem State.raiseExit_dbg (s : State) : s.raiseExit.dbg = s.dbg := rfl
@[simp] theorem State.raiseExit_bp (s : State) : s.raiseExit.bp = s.bp := rfl
@[simp] theorem State.raiseExit_hist (s : State) : s.raiseExit.hist = s.hist := rfl
@[simp] theorem State.raiseExit_exitRequested (s : State) : s.raiseExit.exitRequested = true := rfl
@[simp] theorem State.raiseExit_input (s : State) : s.raiseExit.input = s.input := rfl
@[simp] theorem State.raiseExit_out (s : State) : s.raiseExit.out = s.out := rfl

/-! ## dropInput -/

@[simp] theorem State.dropInput_bank (s : State) : s.dropInput.bank = s.bank := rfl
@[simp] theorem State.dropInput_is (s : State) : s.dropInput.is = s.is := rfl
@[simp] theorem State.dropInput_mem (s : State) : s.dropInput.mem = s.mem := rfl
@[simp] theorem State.dropInput_image (s : State) : s.dropInput.image = s.image := rfl
@[simp] theorem State.dropInput_driver (s : State) : s.dropInput.driver = s.driver := rfl
@[simp] theorem State.dropInput_frame (s : State) : s.dropInput.frame = s.frame := rfl
@[simp] theorem State.dropInput_dbg (s : State) : s.dropInput.dbg = s.dbg := rfl
@[simp] theorem State.dropInput_bp (s : State) : s.dropInput.bp = s.bp := rfl
@[simp] theorem State.dropInput_hist (s : State) : s.dropInput.hist = s.hist := rfl
@[simp] theorem State.dropInput_exitRequested (s : State) : s.dropInput.exitRequested = s.exitRequested := rfl
@[simp] theorem State.dropInput_input (s : State) : s.dropInput.input = s.input.drop 1 := rfl
@[simp] theorem State.dropInput_out (s : State) : s.dropInput.out = s.out := rfl

/-! ## pushHist -/

@[simp] theorem State.pushHist_bank (s : State) (line : Line) : (s.pushHist line).bank = s.bank := rfl
@[simp] theorem State.pushHist_is (s : State) (line : Line) : (s.pushHist line).is = s.is := rfl
@[simp] theorem State.pushHist_mem (s : State) (line : Line) : (s.pushHist line).mem = s.mem := rfl
@[simp] theorem State.pushHist_image (s : State) (line : Line) : (s.pushHist line).image = s.image := rfl
@[simp] theorem State.pushHist_driver (s : State) (line : Line) : (s.pushHist line).driver = s.driver := rfl
@[simp] theorem State.pushHist_frame (s : State) (line : Line) : (s.pushHist line).frame = s.frame := rfl
@[simp] theorem State.pushHist_dbg (s : State) (line : Line) : (s.pushHist line).dbg = s.dbg := rfl
@[simp] theorem State.pushHist_bp (s : State) (line : Line) : (s.pushHist line).bp = s.bp := rfl
@[simp] theorem State.pushHist_hist (s : State) (line : Line) : (s.pushHist line).hist = histPush Config.historyCapacity line s.hist := rfl
@[simp] theorem State.pushHist_exitRequested (s : State) (line : Line) : (s.pushHist line).exitRequested = s.exitRequested := rfl
@[simp] theorem State.pushHist_input (s : State) (line : Line) : (s.pushHist line).input = s.input := rfl
@[simp] theorem State.pushHist_out (s : State) (line : Line) : (s.pushHist line).out = s.out := rfl

/-! ## The InstructionState -/

@[simp] theorem InstructionState.fresh_instr (i : Instr) : (InstructionState.fresh i).instr = some i := rfl
@[simp] theorem InstructionState.fresh_counter (i : Instr) : (InstructionState.fresh i).counter = 0 := rfl
@[simp] theorem InstructionState.fresh_op1 (i : Instr) : (InstructionState.fresh i).op1 = 0x00#8 := rfl
@[simp] theorem InstructionState.fresh_op2 (i : Instr) : (InstructionState.fresh i).op2 = 0x00#8 := rfl

theorem InstructionState.cycles_of_none {x : InstructionState} (h : x.instr = none) : x.cycles = 0 := by
  simp [InstructionState.cycles, InstructionState.tag, h, Tag.cycles]

theorem InstructionState.cycles_of_some {x : InstructionState} {i : Instr} (h : x.instr = some i) :
    x.cycles = i.cycles := by
  simp [InstructionState.cycles, InstructionState.tag, h, Instr.cycles]

@[simp] theorem InstructionState.retired_iff (x : InstructionState) : x.retired = true ↔ x.counter = x.cycles := by
  simp [InstructionState.retired]

/-! ## The reset state -/

@[simp] theorem State.resetWith_pc (r : Reg8 → Byte) (m : Memory) (i : Option Image) (d : Driver) :
    (State.resetWith r m i d).bank.pc = Params.pcReset := rfl
@[simp] theorem State.resetWith_sp (r : Reg8 → Byte) (m : Memory) (i : Option Image) (d : Driver) :
    (State.resetWith r m i d).bank.sp = Params.spReset := rfl
@[simp] theorem State.resetWith_is (r : Reg8 → Byte) (m : Memory) (i : Option Image) (d : Driver) :
    (State.resetWith r m i d).is = .powerOn := rfl
@[simp] theorem State.resetWith_mem (r : Reg8 → Byte) (m : Memory) (i : Option Image) (d : Driver) :
    (State.resetWith r m i d).mem = m := rfl
@[simp] theorem State.resetWith_image (r : Reg8 → Byte) (m : Memory) (i : Option Image) (d : Driver) :
    (State.resetWith r m i d).image = i := rfl
@[simp] theorem State.resetWith_driver (r : Reg8 → Byte) (m : Memory) (i : Option Image) (d : Driver) :
    (State.resetWith r m i d).driver = d := rfl
@[simp] theorem State.resetWith_frame (r : Reg8 → Byte) (m : Memory) (i : Option Image) (d : Driver) :
    (State.resetWith r m i d).frame = .running := rfl

end Sys2Proof.Machine
end

