-- ==== Sys2Proof/Laws/Ops.lean ====
section
/-! SUPPORT. One lemma per shared operation: what MemRead, MemWrite, FetchOperand, the latches and the store can do. -/

namespace Sys2Proof.Machine

/-! ## MemRead (rule R72), region by region -/

theorem memRead_gap (s : State) {a : Word} (h : classify a = .GAP) : memRead s a = .error (.unreadable a) := by
  simp [memRead, h, readPolicy]

theorem memRead_extram (s : State) {a : Word} (h : classify a = .EXTRAM) : memRead s a = .ok 0x00#8 := by
  simp [memRead, h, readPolicy, backing]

theorem memRead_echo (s : State) {a : Word} (h : classify a = .ECHO) :
    memRead s a = .ok (s.mem.read (a.toNat - 0x2000)) := by
  rw [← storageKey_echo a h]
  simp [memRead, h, readPolicy, backing]

theorem memRead_storage (s : State) {a : Word} (h : backing (classify a) = .storage) :
    memRead s a = .ok (s.mem.read a.toNat) := by
  simp [memRead, h, (policies_of_storage h).1, storageKey_localIndex]

theorem memRead_rom (s : State) {a : Word} (h : backing (classify a) = .image) : memRead s a = romRead s a := by
  have hr : readPolicy (classify a) = .readable := by
    revert h
    cases classify a <;> simp [backing, readPolicy]
  simp [memRead, h, hr]

/-- RomRead inside the image is the image's byte (rule R79). -/
theorem romRead_inside {s : State} {a : Word} {img : Image} (hi : s.image = some img) (h : a.toNat < img.len) :
    romRead s a = .ok (img.byteAt a.toNat) := by
  have h1 : ¬ a.toNat + 1 > img.len := by omega
  simp [romRead, hi, imageRead, h1, Image.bigEndian]

/-- RomRead beyond the image is OutOfBounds (rule R79). -/
theorem romRead_beyond {s : State} {a : Word} {img : Image} (hi : s.image = some img) (h : img.len ≤ a.toNat) :
    romRead s a = .error (.outOfBounds a) := by
  have h1 : a.toNat + 1 > img.len := by omega
  simp [romRead, hi, imageRead, h1, ImageFault.wrap]

/-- The two faults of a RomRead's caller: only OutOfBounds, and then the address is not inside the image (rule R79). -/
theorem romRead_error {s : State} {a : Word} {f : Fault} (h : romRead s a = .error f) :
    f = .outOfBounds a ∧ ∀ img, s.image = some img → img.len ≤ a.toNat := by
  cases hi : s.image with
  | none => simp [romRead, hi] at h; exact ⟨h.symm, by simp⟩
  | some img =>
    rcases Nat.lt_or_ge a.toNat img.len with hlt | hge
    · rw [romRead_inside hi hlt] at h; cases h
    · rw [romRead_beyond hi hge] at h
      refine ⟨(Except.error.inj h).symm, ?_⟩
      intro img' h'
      cases h'
      exact hge

/-- Everything a failing MemRead can be (rules R263, R266). -/
theorem memRead_error {s : State} {a : Word} {f : Fault} (h : memRead s a = .error f) :
    (f = .unreadable a ∧ classify a = .GAP) ∨
      (f = .outOfBounds a ∧ backing (classify a) = .image ∧ ∀ img, s.image = some img → img.len ≤ a.toNat) := by
  cases hb : backing (classify a) with
  | image =>
    rw [memRead_rom s hb] at h
    exact .inr ⟨(romRead_error h).1, rfl, (romRead_error h).2⟩
  | storage => rw [memRead_storage s hb] at h; cases h
  | placeholder =>
    have hc : classify a = .EXTRAM := by revert hb; cases classify a <;> simp [backing]
    rw [memRead_extram s hc] at h; cases h
  | mirror =>
    have hc : classify a = .ECHO := by revert hb; cases classify a <;> simp [backing]
    rw [memRead_echo s hc] at h; cases h
  | nothing =>
    have hc : classify a = .GAP := by revert hb; cases classify a <;> simp [backing]
    rw [memRead_gap s hc] at h
    exact .inl ⟨(Except.error.inj h).symm, hc⟩

/-- MemRead looks at the storage and the image only. -/
theorem memRead_congr {s t : State} (hm : t.mem = s.mem) (hi : t.image = s.image) (a : Word) :
    memRead t a = memRead s a := by
  unfold memRead romRead
  rw [hm, hi]

/-! ## MemWrite (rule R73) -/

theorem memWrite_storage (s : State) {a : Word} (h : backing (classify a) = .storage) (v : Byte) :
    memWrite s a v = .ok (s.writeCell a.toNat v) := by
  simp [memWrite, h, (policies_of_storage h).2, storageKey_localIndex]

theorem memWrite_extram (s : State) {a : Word} (h : classify a = .EXTRAM) (v : Byte) : memWrite s a v = .ok s := by
  simp [memWrite, h, writePolicy, backing]

theorem memWrite_gap (s : State) {a : Word} (h : classify a = .GAP) (v : Byte) :
    memWrite s a v = .error (.unwritable a) := by
  simp [memWrite, h, writePolicy]

theorem memWrite_readOnly (s : State) {a : Word} (h : writePolicy (classify a) = .readOnly) (v : Byte) :
    memWrite s a v = .error (.readOnly a) := by
  simp [memWrite, h]

/-- A cell that is not behind an address does not show there. -/
theorem memRead_writeCell_other (s : State) {k : Nat} (v : Byte) {x : Word} (h : storageCell x ≠ some k) :
    memRead (s.writeCell k v) x = memRead s x := by
  cases hb : backing (classify x) with
  | storage =>
    rw [storageCell_of_storage hb] at h
    rw [memRead_storage _ hb, memRead_storage _ hb, State.writeCell_mem,
      Memory.read_write_other fun e => h (by rw [e])]
  | mirror =>
    have hc := eq_echo_of_mirror hb
    rw [storageCell_of_echo hc] at h
    rw [memRead_echo _ hc, memRead_echo _ hc, State.writeCell_mem, Memory.read_write_other fun e => h (by rw [e])]
  | image => rw [memRead_rom _ hb, memRead_rom _ hb]; rfl
  | placeholder =>
    have hc : classify x = .EXTRAM := by revert hb; cases classify x <;> simp [backing]
    rw [memRead_extram _ hc, memRead_extram _ hc]
  | nothing =>
    have hc : classify x = .GAP := by revert hb; cases classify x <;> simp [backing]
    rw [memRead_gap _ hc, memRead_gap _ hc]

/-- Everything a succeeding MemWrite can do: one cell of a storage-backed region, or nothing in the placeholder. -/
theorem memWrite_ok {s t : State} {a : Word} {v : Byte} (h : memWrite s a v = .ok t) :
    (backing (classify a) = .storage ∧ t = s.writeCell a.toNat v) ∨ (classify a = .EXTRAM ∧ t = s) := by
  unfold memWrite at h
  revert h
  cases hc : classify a <;> intro h <;> simp [writePolicy, backing] at h ⊢ <;>
    first
      | exact h.symm
      | (rw [← hc, storageKey_localIndex] at h; exact h.symm)

/-- Everything a failing MemWrite can be (rules R264, R265). -/
theorem memWrite_error {s : State} {a : Word} {v : Byte} {f : Fault} (h : memWrite s a v = .error f) :
    (f = .readOnly a ∧ writePolicy (classify a) = .readOnly) ∨ (f = .unwritable a ∧ classify a = .GAP) := by
  unfold memWrite at h
  revert h
  cases hc : classify a <;> intro h <;> simp [writePolicy, backing] at h ⊢ <;> exact h.symm

/-! ## Operand reads and the store as dispatch steps -/

theorem latchOp1_ok {s : State} {v : Byte} (h : memRead s s.bank.pc = .ok v) :
    latchOp1 s = .next (s.advancePc.setOp1 v) := by
  simp [latchOp1, fetchOperand, h]

theorem latchOp2_ok {s : State} {v : Byte} (h : memRead s s.bank.pc = .ok v) :
    latchOp2 s = .next (s.advancePc.setOp2 v) := by
  simp [latchOp2, fetchOperand, h]

theorem latchOp1_error {s : State} {f : Fault} (h : memRead s s.bank.pc = .error f) : latchOp1 s = .fault f := by
  simp [latchOp1, fetchOperand, h, raise]

theorem latchOp2_error {s : State} {f : Fault} (h : memRead s s.bank.pc = .error f) : latchOp2 s = .fault f := by
  simp [latchOp2, fetchOperand, h, raise]

/-- Everything a latch of the first operand can do. -/
theorem latchOp1_next {s t : State} (h : latchOp1 s = .next t) :
    ∃ v, memRead s s.bank.pc = .ok v ∧ t = s.advancePc.setOp1 v := by
  cases hm : memRead s s.bank.pc with
  | error f => rw [latchOp1_error hm] at h; cases h
  | ok v => rw [latchOp1_ok hm] at h; cases h; exact ⟨v, rfl, rfl⟩

/-- Everything a latch of the second operand can do. -/
theorem latchOp2_next {s t : State} (h : latchOp2 s = .next t) :
    ∃ v, memRead s s.bank.pc = .ok v ∧ t = s.advancePc.setOp2 v := by
  cases hm : memRead s s.bank.pc with
  | error f => rw [latchOp2_error hm] at h; cases h
  | ok v => rw [latchOp2_ok hm] at h; cases h; exact ⟨v, rfl, rfl⟩

theorem latchOp1_fault {s : State} {f : Fault} (h : latchOp1 s = .fault f) : memRead s s.bank.pc = .error f := by
  cases hm : memRead s s.bank.pc with
  | error g => rw [latchOp1_error hm] at h; cases h; rfl
  | ok v => rw [latchOp1_ok hm] at h; cases h

theorem latchOp2_fault {s : State} {f : Fault} (h : latchOp2 s = .fault f) : memRead s s.bank.pc = .error f := by
  cases hm : memRead s s.bank.pc with
  | error g => rw [latchOp2_error hm] at h; cases h; rfl
  | ok v => rw [latchOp2_ok hm] at h; cases h

theorem storeByte_ok {s t : State} {a : Word} {v : Byte} (h : memWrite s a v = .ok t) :
    storeByte a v s = .next t := by
  simp [storeByte, h]

theorem storeByte_error {s : State} {a : Word} {v : Byte} {f : Fault} (h : memWrite s a v = .error f) :
    storeByte a v s = .fault f := by
  simp [storeByte, h, raise]

theorem storeByte_next {s t : State} {a : Word} {v : Byte} (h : storeByte a v s = .next t) :
    memWrite s a v = .ok t := by
  cases hm : memWrite s a v with
  | error f => rw [storeByte_error hm] at h; cases h
  | ok u => rw [storeByte_ok hm] at h; cases h; rfl

theorem storeByte_fault {s : State} {a : Word} {v : Byte} {f : Fault} (h : storeByte a v s = .fault f) :
    memWrite s a v = .error f := by
  cases hm : memWrite s a v with
  | error g => rw [storeByte_error hm] at h; cases h; rfl
  | ok u => rw [storeByte_ok hm] at h; cases h

end Sys2Proof.Machine
end

