-- ==== Sys2Proof/Laws/Engine.lean ====
section
/-! SUPPORT. What `exec`, `fetch` and `cycle` can do, said once: every later proof cites these inversions instead of
unfolding the dispatch. -/

namespace Sys2Proof.Machine

/-! ## exec by tag (rule R147) -/

theorem exec_nop (s : State) : exec .nop s = .next s := rfl

theorem exec_of_load {i : Instr} {dst : OpReg} (h : i.tag = .LD_R_N dst) (s : State) :
    exec i s = loadImmediate dst s := by
  cases i <;> simp only [Instr.tag, Tag.LD_R_N.injEq, reduceCtorEq] at h <;> subst h <;> rfl

theorem exec_of_move {i : Instr} {dst src : OpReg} (h : i.tag = .LD_R_R dst src) (s : State) :
    exec i s = moveRegister dst src s := by
  cases i <;> simp only [Instr.tag, Tag.LD_R_R.injEq, reduceCtorEq] at h <;> obtain ⟨h1, h2⟩ := h <;> subst h1 <;>
    subst h2 <;> rfl

theorem exec_of_store {i : Instr} {src : OpReg} (h : i.tag = .LD_HL_R src) (s : State) :
    exec i s = storeAtHL src s := by
  cases i <;> simp only [Instr.tag, Tag.LD_HL_R.injEq, reduceCtorEq] at h <;> subst h <;> rfl

theorem exec_jp (s : State) : exec .jp_nn s = execJpNn s := rfl

/-- No instruction has the sentinel's tag (rule R127). -/
theorem tag_ne_NONE (i : Instr) : i.tag ≠ .NONE := by cases i <;> simp [Instr.tag]

theorem eq_nop_of_tag {i : Instr} (h : i.tag = .NOP) : i = .nop := by
  cases i <;> simp [Instr.tag] at h ⊢

theorem eq_jp_of_tag {i : Instr} (h : i.tag = .JP_NN) : i = .jp_nn := by
  cases i <;> simp [Instr.tag] at h ⊢

/-! ## The dispatch entries of rule R147, one lemma each -/

theorem exec_load_cycle1 {i : Instr} {dst : OpReg} (h : i.tag = .LD_R_N dst) {s : State} (hc : s.is.counter = 1) :
    exec i s = latchOp1 s := by
  rw [exec_of_load h]; simp [loadImmediate, hc]

theorem exec_load_cycle2 {i : Instr} {dst : OpReg} (h : i.tag = .LD_R_N dst) {s : State} (hc : s.is.counter = 2) :
    exec i s = .next (s.setReg dst.reg s.is.op1) := by
  rw [exec_of_load h]; simp [loadImmediate, hc]

theorem exec_move_cycle1 {i : Instr} {dst src : OpReg} (h : i.tag = .LD_R_R dst src) {s : State}
    (hc : s.is.counter = 1) : exec i s = .next (s.setReg dst.reg (s.bank.get src.reg)) := by
  rw [exec_of_move h]; simp [moveRegister, hc]

theorem exec_store_cycle1 {i : Instr} {src : OpReg} (h : i.tag = .LD_HL_R src) {s : State} (hc : s.is.counter = 1) :
    exec i s = .next s := by
  rw [exec_of_store h]; simp [storeAtHL, hc]

theorem exec_store_cycle2 {i : Instr} {src : OpReg} (h : i.tag = .LD_HL_R src) {s : State} (hc : s.is.counter = 2) :
    exec i s = storeByte (s.bank.getPair .HL) (s.bank.get src.reg) s := by
  rw [exec_of_store h]; simp [storeAtHL, hc]

theorem exec_jp_cycle1 {s : State} (hc : s.is.counter = 1) : exec .jp_nn s = .next s := by
  rw [exec_jp]; simp [execJpNn, hc]

theorem exec_jp_cycle2 {s : State} (hc : s.is.counter = 2) : exec .jp_nn s = latchOp1 s := by
  rw [exec_jp]; simp [execJpNn, hc]

theorem exec_jp_cycle3 {s : State} (hc : s.is.counter = 3) : exec .jp_nn s = latchOp2 s := by
  rw [exec_jp]; simp [execJpNn, hc]

theorem exec_jp_cycle4 {s : State} (hc : s.is.counter = 4) :
    exec .jp_nn s = .next (s.setPc (joinBytes s.is.op1 s.is.op2)) := by
  rw [exec_jp]; simp [execJpNn, hc]

/-- Everything `exec` can do when it answers a next state: nothing, or one dispatch entry of rule R147. -/
inductive ExecNext (i : Instr) (s t : State) : Prop where
  | nothing (ht : t = s)
  | loadRead (dst : OpReg) (htag : i.tag = .LD_R_N dst) (hc : s.is.counter = 1) (v : Byte)
      (hv : memRead s s.bank.pc = .ok v) (ht : t = s.advancePc.setOp1 v)
  | loadWrite (dst : OpReg) (htag : i.tag = .LD_R_N dst) (hc : s.is.counter = 2)
      (ht : t = s.setReg dst.reg s.is.op1)
  | move (dst src : OpReg) (htag : i.tag = .LD_R_R dst src) (hc : s.is.counter = 1)
      (ht : t = s.setReg dst.reg (s.bank.get src.reg))
  | store (src : OpReg) (htag : i.tag = .LD_HL_R src) (hc : s.is.counter = 2)
      (ht : memWrite s (s.bank.getPair .HL) (s.bank.get src.reg) = .ok t)
  | jumpRead1 (htag : i = .jp_nn) (hc : s.is.counter = 2) (v : Byte) (hv : memRead s s.bank.pc = .ok v)
      (ht : t = s.advancePc.setOp1 v)
  | jumpRead2 (htag : i = .jp_nn) (hc : s.is.counter = 3) (v : Byte) (hv : memRead s s.bank.pc = .ok v)
      (ht : t = s.advancePc.setOp2 v)
  | jumpCommit (htag : i = .jp_nn) (hc : s.is.counter = 4) (ht : t = s.setPc (joinBytes s.is.op1 s.is.op2))

theorem exec_next {i : Instr} {s t : State} (h : exec i s = .next t) : ExecNext i s t := by
  cases htag : i.tag with
  | NONE => exact absurd htag (tag_ne_NONE i)
  | NOP =>
    rw [eq_nop_of_tag htag, exec_nop] at h
    cases h
    exact .nothing rfl
  | LD_R_N dst =>
    rw [exec_of_load htag] at h
    unfold loadImmediate at h
    split at h
    · next hc => obtain ⟨v, hv, ht⟩ := latchOp1_next h; exact .loadRead dst htag hc v hv ht
    · next hc => cases h; exact .loadWrite dst htag hc rfl
    · cases h; exact .nothing rfl
  | LD_R_R dst src =>
    rw [exec_of_move htag] at h
    unfold moveRegister at h
    split at h
    · next hc => cases h; exact .move dst src htag hc rfl
    · cases h; exact .nothing rfl
  | LD_HL_R src =>
    rw [exec_of_store htag] at h
    unfold storeAtHL at h
    split at h
    · next hc => exact .store src htag hc (storeByte_next h)
    · cases h; exact .nothing rfl
  | JP_NN =>
    have hi := eq_jp_of_tag htag
    subst hi
    rw [exec_jp] at h
    unfold execJpNn at h
    split at h
    · next hc => obtain ⟨v, hv, ht⟩ := latchOp1_next h; exact .jumpRead1 rfl hc v hv ht
    · next hc => obtain ⟨v, hv, ht⟩ := latchOp2_next h; exact .jumpRead2 rfl hc v hv ht
    · next hc => cases h; exact .jumpCommit rfl hc rfl
    · cases h; exact .nothing rfl

/-- Everything `exec` can do when it faults: an operand read or the store. -/
inductive ExecFault (i : Instr) (s : State) (f : Fault) : Prop where
  | operand (htag : (∃ dst, i.tag = .LD_R_N dst ∧ s.is.counter = 1) ∨
      (i = .jp_nn ∧ (s.is.counter = 2 ∨ s.is.counter = 3))) (hf : memRead s s.bank.pc = .error f)
  | store (src : OpReg) (htag : i.tag = .LD_HL_R src) (hc : s.is.counter = 2)
      (hf : memWrite s (s.bank.getPair .HL) (s.bank.get src.reg) = .error f)

theorem exec_fault {i : Instr} {s : State} {f : Fault} (h : exec i s = .fault f) : ExecFault i s f := by
  cases htag : i.tag with
  | NONE => exact absurd htag (tag_ne_NONE i)
  | NOP => rw [eq_nop_of_tag htag, exec_nop] at h; cases h
  | LD_R_N dst =>
    rw [exec_of_load htag] at h
    unfold loadImmediate at h
    split at h
    · next hc => exact .operand (.inl ⟨dst, htag, hc⟩) (latchOp1_fault h)
    · cases h
    · cases h
  | LD_R_R dst src =>
    rw [exec_of_move htag] at h
    unfold moveRegister at h
    split at h <;> cases h
  | LD_HL_R src =>
    rw [exec_of_store htag] at h
    unfold storeAtHL at h
    split at h
    · next hc => exact .store src htag hc (storeByte_fault h)
    · cases h
  | JP_NN =>
    have hi := eq_jp_of_tag htag
    subst hi
    rw [exec_jp] at h
    unfold execJpNn at h
    split at h
    · next hc => exact .operand (.inr ⟨rfl, .inl hc⟩) (latchOp1_fault h)
    · next hc => exact .operand (.inr ⟨rfl, .inr hc⟩) (latchOp2_fault h)
    · cases h
    · cases h

/-- No meaning refuses. -/
theorem exec_ne_refused (i : Instr) (s : State) (r : Refusal) : exec i s ≠ .refused r := by
  intro h
  cases htag : i.tag with
  | NONE => exact absurd htag (tag_ne_NONE i)
  | NOP => rw [eq_nop_of_tag htag, exec_nop] at h; cases h
  | LD_R_N dst =>
    rw [exec_of_load htag] at h
    unfold loadImmediate at h
    split at h
    · cases hm : memRead s s.bank.pc with
      | error f => rw [latchOp1_error hm] at h; cases h
      | ok v => rw [latchOp1_ok hm] at h; cases h
    · cases h
    · cases h
  | LD_R_R dst src =>
    rw [exec_of_move htag] at h
    unfold moveRegister at h
    split at h <;> cases h
  | LD_HL_R src =>
    rw [exec_of_store htag] at h
    unfold storeAtHL at h
    split at h
    · cases hm : memWrite s (s.bank.getPair .HL) (s.bank.get src.reg) with
      | error f => rw [storeByte_error hm] at h; cases h
      | ok u => rw [storeByte_ok hm] at h; cases h
    · cases h
  | JP_NN =>
    have hi := eq_jp_of_tag htag
    subst hi
    rw [exec_jp] at h
    unfold execJpNn at h
    cases hm : memRead s s.bank.pc with
    | error f => rw [latchOp1_error hm, latchOp2_error hm] at h; split at h <;> cases h
    | ok v => rw [latchOp1_ok hm, latchOp2_ok hm] at h; split at h <;> cases h

/-! ## fetch (rules R143 to R145) -/

theorem fetch_ok {s : State} {b : Byte} {i : Instr} (hm : memRead s s.bank.pc = .ok b)
    (hd : decode b = .recognized i) : fetch s = .ok (s.advancePc.install i) := by
  simp [fetch, hm, hd]

theorem fetch_inv {s t : State} (h : fetch s = .ok t) :
    ∃ b i, memRead s s.bank.pc = .ok b ∧ decode b = .recognized i ∧ t = s.advancePc.install i := by
  cases hm : memRead s s.bank.pc with
  | error f => simp [fetch, hm] at h
  | ok b =>
    cases hd : decode b with
    | unrecognized => simp [fetch, hm, hd] at h
    | recognized i => simp [fetch, hm, hd] at h; exact ⟨b, i, rfl, hd, h.symm⟩

theorem fetch_error {s : State} {f : Fault} (h : fetch s = .error f) :
    memRead s s.bank.pc = .error f ∨
      ∃ b, memRead s s.bank.pc = .ok b ∧ decode b = .unrecognized ∧ f = .invalidOpcode b s.bank.pc := by
  cases hm : memRead s s.bank.pc with
  | error g => simp [fetch, hm] at h; exact .inl (by rw [h])
  | ok b =>
    cases hd : decode b with
    | unrecognized => simp [fetch, hm, hd] at h; exact .inr ⟨b, rfl, hd, h.symm⟩
    | recognized i => simp [fetch, hm, hd] at h

/-! ## cycle (rule R141) -/

/-- The state an M-cycle's dispatch starts from: after a fetch if the engine was retired, the current one if not. -/
inductive CycleStart (s : State) : State → Prop where
  | fetched (hr : s.is.retired = true) (b : Byte) (i : Instr) (hb : memRead s s.bank.pc = .ok b)
      (hd : decode b = .recognized i) : CycleStart s (s.advancePc.install i)
  | inFlight (hr : s.is.retired = false) : CycleStart s s

/-- A `Done` call: an image is attached, and the dispatch ran from a start state. -/
theorem cycle_next {s t : State} (h : cycle s = .next t) :
    (∃ img, s.image = some img) ∧ ∃ u, CycleStart s u ∧ runCycle u = .next t := by
  unfold cycle at h
  cases hi : s.image with
  | none => rw [hi] at h; cases h
  | some img =>
    rw [hi] at h
    refine ⟨⟨img, rfl⟩, ?_⟩
    cases hr : s.is.retired with
    | false => simp only [hr] at h; exact ⟨s, .inFlight hr, h⟩
    | true =>
      simp only [hr, if_true] at h
      cases hf : fetch s with
      | error f => rw [hf] at h; cases h
      | ok u =>
        rw [hf] at h
        obtain ⟨b, i, hb, hd, hu⟩ := fetch_inv hf
        subst hu
        exact ⟨_, .fetched hr b i hb hd, h⟩

/-- A faulting call: the fetch failed, or the dispatch did. -/
theorem cycle_fault {s : State} {f : Fault} (h : cycle s = .fault f) :
    (∃ img, s.image = some img) ∧
      ((s.is.retired = true ∧ fetch s = .error f) ∨ ∃ u, CycleStart s u ∧ runCycle u = .fault f) := by
  unfold cycle at h
  cases hi : s.image with
  | none => rw [hi] at h; cases h
  | some img =>
    rw [hi] at h
    refine ⟨⟨img, rfl⟩, ?_⟩
    cases hr : s.is.retired with
    | false => simp only [hr] at h; exact .inr ⟨s, .inFlight hr, h⟩
    | true =>
      simp only [hr, if_true] at h
      cases hf : fetch s with
      | error g => rw [hf] at h; cases h; exact .inl ⟨rfl, rfl⟩
      | ok u =>
        rw [hf] at h
        obtain ⟨b, i, hb, hd, hu⟩ := fetch_inv hf
        subst hu
        exact .inr ⟨_, .fetched hr b i hb hd, h⟩

/-- A call on a retired engine with an image is a fetch and then its dispatch. -/
theorem cycle_retired {s : State} (hi : s.image ≠ none) (hr : s.is.retired = true) :
    cycle s = match fetch s with
      | .error f => .fault f
      | .ok t => runCycle t := by
  unfold cycle
  cases him : s.image with
  | none => exact absurd him hi
  | some img =>
    simp only [hr, if_true]
    rfl

/-- A call on an instruction in flight with an image is its dispatch. -/
theorem cycle_inFlight {s : State} (hi : s.image ≠ none) (hr : s.is.retired = false) : cycle s = runCycle s := by
  unfold cycle
  cases him : s.image with
  | none => exact absurd him hi
  | some img => simp [hr]

theorem runCycle_some {s : State} {i : Instr} (h : s.is.instr = some i) : runCycle s = exec i s.tick := by
  simp [runCycle, h]

theorem runCycle_none {s : State} (h : s.is.instr = none) : runCycle s = .next s.tick := by
  simp [runCycle, h]

/-- A call refuses only for want of an image (rule R142). -/
theorem cycle_refused {s : State} {r : Refusal} (h : cycle s = .refused r) : s.image = none ∧ r = .noImage := by
  have run : ∀ u : State, runCycle u ≠ .refused r := by
    intro u hu
    cases hi : u.is.instr with
    | none => rw [runCycle_none hi] at hu; cases hu
    | some i => rw [runCycle_some hi] at hu; exact exec_ne_refused _ _ _ hu
  unfold cycle at h
  cases hi : s.image with
  | none => rw [hi] at h; cases h; exact ⟨rfl, rfl⟩
  | some img =>
    rw [hi] at h
    cases hr : s.is.retired with
    | false => simp only [hr] at h; exact absurd h (run s)
    | true =>
      simp only [hr, if_true] at h
      cases hf : fetch s with
      | error g => rw [hf] at h; cases h
      | ok u => rw [hf] at h; exact absurd h (run u)

end Sys2Proof.Machine
end

