-- ==== Sys2Proof/Laws/Debugger.lean ====
section
/-! SUPPORT. What the debugger's operations and one of its transitions can do. -/

namespace Sys2Proof.Machine

/-! ## The history (rule R245) -/

theorem histPush_history (cap : Nat) (hist : List Line) : histPush cap historyWord hist = hist := by
  simp [histPush]

theorem histPush_last {cap : Nat} {line : Line} {hist : List Line} (h : hist.getLast? = some line) :
    histPush cap line hist = hist := by
  simp [histPush, h]

theorem histPush_append {cap : Nat} {line : Line} {hist : List Line} (h1 : line ≠ historyWord)
    (h2 : hist.getLast? ≠ some line) : histPush cap line hist = evictOldest cap (hist ++ [line]) := by
  simp [histPush, h1, h2]

/-! ## The breakpoint set (rules R220, R221) -/

theorem mem_bpAdd (a x : Word) (bp : List Word) : x ∈ bpAdd a bp ↔ x = a ∨ x ∈ bp := by
  unfold bpAdd
  split
  · next h => constructor
              · exact .inr
              · rintro (rfl | h')
                · exact h
                · exact h'
  · simp [or_comm]

theorem bpAdd_nodup {bp : List Word} (h : bp.Nodup) (a : Word) : (bpAdd a bp).Nodup := by
  unfold bpAdd
  split
  · exact h
  · next ha => exact List.nodup_append.mpr ⟨h, by simp, by rintro x hx y hy rfl; simp at hy; subst hy; exact ha hx⟩

theorem mem_bpRemove (a x : Word) (bp : List Word) : x ∈ bpRemove a bp ↔ x ∈ bp ∧ x ≠ a := by
  simp [bpRemove]

theorem bpRemove_nodup {bp : List Word} (h : bp.Nodup) (a : Word) : (bpRemove a bp).Nodup := h.filter _

/-! ## Ends of a command, field by field -/

@[simp] theorem State.finish_bank (s : State) (l : Line) : (s.finish l).bank = s.bank := rfl
@[simp] theorem State.finish_is (s : State) (l : Line) : (s.finish l).is = s.is := rfl
@[simp] theorem State.finish_mem (s : State) (l : Line) : (s.finish l).mem = s.mem := rfl
@[simp] theorem State.finish_image (s : State) (l : Line) : (s.finish l).image = s.image := rfl
@[simp] theorem State.finish_driver (s : State) (l : Line) : (s.finish l).driver = s.driver := rfl
@[simp] theorem State.finish_frame (s : State) (l : Line) : (s.finish l).frame = s.frame := rfl
@[simp] theorem State.finish_dbg (s : State) (l : Line) : (s.finish l).dbg = .idle := rfl
@[simp] theorem State.finish_bp (s : State) (l : Line) : (s.finish l).bp = s.bp := rfl
@[simp] theorem State.finish_hist (s : State) (l : Line) :
    (s.finish l).hist = histPush Config.historyCapacity l s.hist := rfl
@[simp] theorem State.finish_exitRequested (s : State) (l : Line) : (s.finish l).exitRequested = s.exitRequested := rfl
@[simp] theorem State.finish_input (s : State) (l : Line) : (s.finish l).input = s.input := rfl
@[simp] theorem State.finish_out (s : State) (l : Line) : (s.finish l).out = s.out := rfl

@[simp] theorem State.terminateOn_bank (s : State) (f : Fault) (l : Line) : (s.terminateOn f l).bank = s.bank := rfl
@[simp] theorem State.terminateOn_is (s : State) (f : Fault) (l : Line) : (s.terminateOn f l).is = s.is := rfl
@[simp] theorem State.terminateOn_mem (s : State) (f : Fault) (l : Line) : (s.terminateOn f l).mem = s.mem := rfl
@[simp] theorem State.terminateOn_image (s : State) (f : Fault) (l : Line) : (s.terminateOn f l).image = s.image := rfl
@[simp] theorem State.terminateOn_driver (s : State) (f : Fault) (l : Line) :
    (s.terminateOn f l).driver = s.driver := rfl
@[simp] theorem State.terminateOn_frame (s : State) (f : Fault) (l : Line) : (s.terminateOn f l).frame = s.frame := rfl
@[simp] theorem State.terminateOn_dbg (s : State) (f : Fault) (l : Line) :
    (s.terminateOn f l).dbg = .terminated (.fault f) := rfl
@[simp] theorem State.terminateOn_bp (s : State) (f : Fault) (l : Line) : (s.terminateOn f l).bp = s.bp := rfl
@[simp] theorem State.terminateOn_hist (s : State) (f : Fault) (l : Line) :
    (s.terminateOn f l).hist = histPush Config.historyCapacity l s.hist := rfl
@[simp] theorem State.terminateOn_exitRequested (s : State) (f : Fault) (l : Line) :
    (s.terminateOn f l).exitRequested = s.exitRequested := rfl
@[simp] theorem State.terminateOn_input (s : State) (f : Fault) (l : Line) : (s.terminateOn f l).input = s.input := rfl
@[simp] theorem State.terminateOn_out (s : State) (f : Fault) (l : Line) :
    (s.terminateOn f l).out = s.out ++ [.fault f] := rfl

@[simp] theorem State.exitOn_bank (s : State) (l : Line) : (s.exitOn l).bank = s.bank := rfl
@[simp] theorem State.exitOn_is (s : State) (l : Line) : (s.exitOn l).is = s.is := rfl
@[simp] theorem State.exitOn_mem (s : State) (l : Line) : (s.exitOn l).mem = s.mem := rfl
@[simp] theorem State.exitOn_image (s : State) (l : Line) : (s.exitOn l).image = s.image := rfl
@[simp] theorem State.exitOn_driver (s : State) (l : Line) : (s.exitOn l).driver = s.driver := rfl
@[simp] theorem State.exitOn_frame (s : State) (l : Line) : (s.exitOn l).frame = s.frame := rfl
@[simp] theorem State.exitOn_dbg (s : State) (l : Line) : (s.exitOn l).dbg = .terminated .exitRequested := rfl
@[simp] theorem State.exitOn_bp (s : State) (l : Line) : (s.exitOn l).bp = s.bp := rfl
@[simp] theorem State.exitOn_hist (s : State) (l : Line) :
    (s.exitOn l).hist = histPush Config.historyCapacity l s.hist := rfl
@[simp] theorem State.exitOn_exitRequested (s : State) (l : Line) : (s.exitOn l).exitRequested = true := rfl
@[simp] theorem State.exitOn_input (s : State) (l : Line) : (s.exitOn l).input = s.input := rfl
@[simp] theorem State.exitOn_out (s : State) (l : Line) : (s.exitOn l).out = s.out := rfl

/-! ## One transition (rule R240) -/

/-- Everything one transition of the debugger can do to the engine: nothing, or one `Done` call of `cycle()`
(rule R210). `d` is the debugger's part after it. -/
inductive DebuggerNext (s t : State) : Prop where
  /-- No `cycle()` call was `Done`: the engine stands still. -/
  | still (hbank : t.bank = s.bank) (his : t.is = s.is) (hmem : t.mem = s.mem) (himage : t.image = s.image)
      (hdriver : t.driver = s.driver) (hframe : t.frame = s.frame)
  /-- One `Done` call, from the state with at most its first line read. -/
  | ran (u v : State) (hu : u = s ∨ u = s.dropInput) (hc : cycle u = .next v) (hbank : t.bank = v.bank)
      (his : t.is = v.is) (hmem : t.mem = v.mem) (himage : t.image = v.image) (hdriver : t.driver = v.driver)
      (hframe : t.frame = v.frame)

theorem commandStep_next {l : Line} {s t : State} (h : commandStep l s = .next t) :
    (∃ v, cycle s = .next v ∧ t = v.finish l) ∨ (∃ f, cycle s = .fault f ∧ t = s.terminateOn f l) ∨
      (s.image = none ∧ t = s.finishNoImage l) := by
  unfold commandStep at h
  split at h
  · next v hv => cases h; exact .inl ⟨v, hv, rfl⟩
  · next f hf => cases h; exact .inr (.inl ⟨f, hf, rfl⟩)
  · next hr => cases h; exact .inr (.inr ⟨(cycle_refused hr).1, rfl⟩)
  · cases h

theorem continueTurn_next {s t : State} (h : continueTurn s = .next t) :
    (∃ v, cycle s = .next v ∧ ((v.atBreakpoint = true ∧ t = v.finish Keyword.continue_.word) ∨
      (v.atBreakpoint = false ∧ t = v))) ∨ (∃ f, cycle s = .fault f ∧ t = s.terminateOn f Keyword.continue_.word) ∨
      (s.image = none ∧ t = s.finishNoImage Keyword.continue_.word) := by
  unfold continueTurn at h
  split at h
  · next v hv =>
    refine .inl ⟨v, hv, ?_⟩
    split at h
    · next hb => cases h; exact .inl ⟨hb, rfl⟩
    · next hb => cases h; exact .inr ⟨by simpa using hb, rfl⟩
  · next f hf => cases h; exact .inr (.inl ⟨f, hf, rfl⟩)
  · next hr => cases h; exact .inr (.inr ⟨(cycle_refused hr).1, rfl⟩)
  · cases h

theorem cuniTurn_next {honours : Bool} {s t : State} (h : cuniTurn honours s = .next t) :
    (∃ x, peek s = .instr x ∧ ∃ v, cycle s = .next v ∧
      (((honours && v.atBreakpoint) = true ∧ t = v.finish Keyword.continueUntilNotImpl.word) ∨
        ((honours && v.atBreakpoint) = false ∧ t = v))) ∨
      (∃ x f, peek s = .instr x ∧ cycle s = .fault f ∧ t = s.terminateOn f Keyword.continueUntilNotImpl.word) ∨
      (∃ b a, peek s = .raw b a ∧ t = (s.print [.raw b a]).finish Keyword.continueUntilNotImpl.word) ∨
      (∃ f, peek s = .fault f ∧ t = s.terminateOn f Keyword.continueUntilNotImpl.word) ∨
      (s.image = none ∧ t = s.finishNoImage Keyword.continueUntilNotImpl.word) := by
  unfold cuniTurn at h
  split at h
  · next b a hp => cases h; exact .inr (.inr (.inl ⟨b, a, hp, rfl⟩))
  · next f hp => cases h; exact .inr (.inr (.inr (.inl ⟨f, hp, rfl⟩)))
  · next hp =>
    cases h
    refine .inr (.inr (.inr (.inr ⟨?_, rfl⟩)))
    cases hi : s.image with
    | none => rfl
    | some img =>
      exfalso
      unfold peek at hp
      rw [hi] at hp
      simp only at hp
      split at hp
      · split at hp
        · cases hp
        · split at hp <;> cases hp
      · cases hp
  · next x hp =>
    unfold cuniCycle at h
    split at h
    · next v hv =>
      refine .inl ⟨x, hp, v, hv, ?_⟩
      split at h
      · next hb => cases h; exact .inl ⟨hb, rfl⟩
      · next hb => cases h; exact .inr ⟨by simpa using hb, rfl⟩
    · next f hf => cases h; exact .inr (.inl ⟨x, f, hp, hf, rfl⟩)
    · next hr => cases h; exact .inr (.inr (.inr (.inr ⟨(cycle_refused hr).1, rfl⟩)))
    · cases h

/-- The effect of one transition on the engine. -/
theorem debuggerTurn_next {s t : State} (h : debuggerTurn s = .next t) : DebuggerNext s t := by
  unfold debuggerTurn at h
  split at h
  · split at h
    · cases h; exact .still rfl rfl rfl rfl rfl rfl
    · next line _ _ =>
      unfold runLine at h
      split at h
      · cases h; exact .still rfl rfl rfl rfl rfl rfl
      · next c _ =>
        unfold runCommand at h
        cases c
        case step =>
          rcases commandStep_next h with ⟨v, hv, rfl⟩ | ⟨f, hf, rfl⟩ | ⟨hi, rfl⟩
          · exact .ran s.dropInput v (.inr rfl) hv rfl rfl rfl rfl rfl rfl
          · exact .still rfl rfl rfl rfl rfl rfl
          · exact .still rfl rfl rfl rfl rfl rfl
        all_goals cases h; exact .still rfl rfl rfl rfl rfl rfl
  · rcases continueTurn_next h with ⟨v, hv, ⟨_, rfl⟩ | ⟨_, rfl⟩⟩ | ⟨f, hf, rfl⟩ | ⟨hi, rfl⟩
    · exact .ran s v (.inl rfl) hv rfl rfl rfl rfl rfl rfl
    · exact .ran s t (.inl rfl) hv rfl rfl rfl rfl rfl rfl
    · exact .still rfl rfl rfl rfl rfl rfl
    · exact .still rfl rfl rfl rfl rfl rfl
  · rcases cuniTurn_next h with ⟨x, hx, v, hv, ⟨_, rfl⟩ | ⟨_, rfl⟩⟩ | ⟨x, f, hx, hf, rfl⟩ | ⟨b, a, hp, rfl⟩ |
      ⟨f, hp, rfl⟩ | ⟨hi, rfl⟩
    · exact .ran s v (.inl rfl) hv rfl rfl rfl rfl rfl rfl
    · exact .ran s t (.inl rfl) hv rfl rfl rfl rfl rfl rfl
    all_goals exact .still rfl rfl rfl rfl rfl rfl
  · cases h; exact .still rfl rfl rfl rfl rfl rfl

end Sys2Proof.Machine
end

