-- ==== Sys2Proof/Laws/Decode.lean ====
section
/-! SUPPORT. The decoder against the encoder, opcode byte by opcode byte. -/

namespace Sys2Proof

/-- The opcode byte of an instruction decodes to it. -/
theorem decode_opcode (i : Instr) : decode i.opcode = .recognized i := by cases i <;> decide

/-- The decoder's answer for a byte has that byte as its opcode, checked byte by byte. -/
def decodesToItsOpcode (b : Byte) : Bool :=
  match decode b with
  | .recognized i => decide (i.opcode = b)
  | .unrecognized => true

set_option maxRecDepth 10000 in
theorem every_byte_decodesToItsOpcode : ∀ n : Fin 256, decodesToItsOpcode (BitVec.ofFin n) = true := by decide

/-- A byte that decodes to an instruction is that instruction's opcode. -/
theorem opcode_of_decode {b : Byte} {i : Instr} (h : decode b = .recognized i) : i.opcode = b := by
  have hb := every_byte_decodesToItsOpcode b.toFin
  change decodesToItsOpcode b = true at hb
  simpa [decodesToItsOpcode, h] using hb

end Sys2Proof
end

