-- ==== Sys2Proof/Laws/Driver.lean ====
section
/-! SUPPORT. What a turn of the frame loop and a step can do. -/

namespace Sys2Proof.Machine

/-! ## The frame loop's end, field by field -/

@[simp] theorem State.setFrame_bank (s : State) (fs : FrameState) : (s.setFrame fs).bank = s.bank := rfl
@[simp] theorem State.setFrame_is (s : State) (fs : FrameState) : (s.setFrame fs).is = s.is := rfl
@[simp] theorem State.setFrame_mem (s : State) (fs : FrameState) : (s.setFrame fs).mem = s.mem := rfl
@[simp] theorem State.setFrame_image (s : State) (fs : FrameState) : (s.setFrame fs).image = s.image := rfl
@[simp] theorem State.setFrame_driver (s : State) (fs : FrameState) : (s.setFrame fs).driver = s.driver := rfl
@[simp] theorem State.setFrame_frame (s : State) (fs : FrameState) : (s.setFrame fs).frame = fs := rfl
@[simp] theorem State.setFrame_dbg (s : State) (fs : FrameState) : (s.setFrame fs).dbg = s.dbg := rfl
@[simp] theorem State.setFrame_bp (s : State) (fs : FrameState) : (s.setFrame fs).bp = s.bp := rfl
@[simp] theorem State.setFrame_hist (s : State) (fs : FrameState) : (s.setFrame fs).hist = s.hist := rfl
@[simp] theorem State.setFrame_exitRequested (s : State) (fs : FrameState) : (s.setFrame fs).exitRequested = s.exitRequested := rfl
@[simp] theorem State.setFrame_input (s : State) (fs : FrameState) : (s.setFrame fs).input = s.input := rfl
@[simp] theorem State.setFrame_out (s : State) (fs : FrameState) : (s.setFrame fs).out = s.out := rfl
@[simp] theorem State.stopFrame_bank (s : State) (f : Fault) : (s.stopFrame f).bank = s.bank := rfl
@[simp] theorem State.stopFrame_is (s : State) (f : Fault) : (s.stopFrame f).is = s.is := rfl
@[simp] theorem State.stopFrame_mem (s : State) (f : Fault) : (s.stopFrame f).mem = s.mem := rfl
@[simp] theorem State.stopFrame_image (s : State) (f : Fault) : (s.stopFrame f).image = s.image := rfl
@[simp] theorem State.stopFrame_driver (s : State) (f : Fault) : (s.stopFrame f).driver = s.driver := rfl
@[simp] theorem State.stopFrame_frame (s : State) (f : Fault) : (s.stopFrame f).frame = .terminated f := rfl
@[simp] theorem State.stopFrame_dbg (s : State) (f : Fault) : (s.stopFrame f).dbg = s.dbg := rfl
@[simp] theorem State.stopFrame_bp (s : State) (f : Fault) : (s.stopFrame f).bp = s.bp := rfl
@[simp] theorem State.stopFrame_hist (s : State) (f : Fault) : (s.stopFrame f).hist = s.hist := rfl
@[simp] theorem State.stopFrame_exitRequested (s : State) (f : Fault) : (s.stopFrame f).exitRequested = s.exitRequested := rfl
@[simp] theorem State.stopFrame_input (s : State) (f : Fault) : (s.stopFrame f).input = s.input := rfl
@[simp] theorem State.stopFrame_out (s : State) (f : Fault) : (s.stopFrame f).out = s.out ++ [.fault f] := rfl

/-! ## One turn of the frame loop (rule R318) -/

theorem frameTurn_terminated {s : State} {f : Fault} (h : s.frame = .terminated f) : frameTurn s = .next s := by
  simp [frameTurn, h]

theorem frameTurn_running {s : State} (h : s.frame = .running) :
    frameTurn s = match cycle s with
      | .next t => .next t
      | .fault f => .next (s.stopFrame f)
      | .refused r => .refused r := by
  cases hc : cycle s <;> simp [frameTurn, h, hc]

/-- Everything a turn of the frame loop can do when it answers a next state. -/
theorem frameTurn_next {s t : State} (h : frameTurn s = .next t) :
    (∃ f, s.frame = .terminated f ∧ t = s) ∨ (s.frame = .running ∧ cycle s = .next t) ∨
      (∃ f, s.frame = .running ∧ cycle s = .fault f ∧ t = s.stopFrame f) := by
  unfold frameTurn at h
  split at h
  · next f hf => cases h; exact .inl ⟨f, hf, rfl⟩
  · next hr =>
    split at h
    · next v hv => cases h; exact .inr (.inl ⟨hr, hv⟩)
    · next f hf => cases h; exact .inr (.inr ⟨f, hr, hf, rfl⟩)
    · cases h

/-- The frame loop never answers a fault: it prints it and terminates. -/
theorem frameTurn_ne_fault (s : State) (f : Fault) : frameTurn s ≠ .fault f := by
  unfold frameTurn
  split
  · simp
  · split <;> simp

/-! ## A step, by its driver -/

theorem step_frameLoop {s : State} (h : s.driver = .frameLoop) : step s = frameTurn s := by
  simp [step, driverTurn, h]

theorem step_debugger {s : State} (h : s.driver = .debugger) : step s = debuggerTurn s := by
  simp [step, driverTurn, h]

end Sys2Proof.Machine
end

