-- ==== Sys2Proof/Laws/Input.lean ====
section
/-! SUPPORT. The engine does not look at the lines typed to the debugger: `cycle()` commutes with changing them. -/

namespace Sys2Proof.Machine

/-- Change the next state of an outcome, and leave faults and refusals. -/
def mapNext (g : State → State) : Host.Outcome State Fault Refusal → Host.Outcome State Fault Refusal
  | .next t => .next (g t)
  | .fault f => .fault f
  | .refused r => .refused r

/-- The state with other pending lines. -/
def State.withInput (l : List Line) (s : State) : State := { s with input := l }

theorem latchOp1_withInput (l : List Line) (s : State) :
    latchOp1 (s.withInput l) = mapNext (State.withInput l) (latchOp1 s) := by
  cases h : memRead s s.bank.pc with
  | error f => rw [latchOp1_error h, latchOp1_error (s := s.withInput l) h]; rfl
  | ok v => rw [latchOp1_ok h, latchOp1_ok (s := s.withInput l) h]; rfl

theorem latchOp2_withInput (l : List Line) (s : State) :
    latchOp2 (s.withInput l) = mapNext (State.withInput l) (latchOp2 s) := by
  cases h : memRead s s.bank.pc with
  | error f => rw [latchOp2_error h, latchOp2_error (s := s.withInput l) h]; rfl
  | ok v => rw [latchOp2_ok h, latchOp2_ok (s := s.withInput l) h]; rfl

theorem storeByte_withInput (l : List Line) (a : Word) (v : Byte) (s : State) :
    storeByte a v (s.withInput l) = mapNext (State.withInput l) (storeByte a v s) := by
  have : memWrite (s.withInput l) a v = (memWrite s a v).map (State.withInput l) := by
    unfold memWrite; split <;> (try rfl); split <;> rfl
  unfold storeByte
  rw [this]
  cases memWrite s a v <;> rfl

theorem exec_withInput (l : List Line) (i : Instr) (s : State) :
    exec i (s.withInput l) = mapNext (State.withInput l) (exec i s) := by
  have hc : (s.withInput l).is.counter = s.is.counter := rfl
  cases htag : i.tag with
  | NONE => exact absurd htag (tag_ne_NONE i)
  | NOP => rw [eq_nop_of_tag htag]; rfl
  | LD_R_N dst =>
    rw [exec_of_load htag, exec_of_load htag, loadImmediate, loadImmediate, hc]
    split
    · exact latchOp1_withInput l s
    · rfl
    · rfl
  | LD_R_R dst src =>
    rw [exec_of_move htag, exec_of_move htag, moveRegister, moveRegister, hc]
    split <;> rfl
  | LD_HL_R src =>
    rw [exec_of_store htag, exec_of_store htag, storeAtHL, storeAtHL, hc]
    split
    · exact storeByte_withInput l _ _ s
    · rfl
  | JP_NN =>
    rw [eq_jp_of_tag htag, exec_jp, exec_jp, execJpNn, execJpNn, hc]
    split
    · exact latchOp1_withInput l s
    · exact latchOp2_withInput l s
    · rfl
    · rfl

theorem runCycle_withInput (l : List Line) (s : State) :
    runCycle (s.withInput l) = mapNext (State.withInput l) (runCycle s) := by
  cases h : s.is.instr with
  | none => rw [runCycle_none h, runCycle_none (s := s.withInput l) h]; rfl
  | some i => rw [runCycle_some h, runCycle_some (s := s.withInput l) h]; exact exec_withInput l i s.tick

theorem fetch_withInput (l : List Line) (s : State) : fetch (s.withInput l) = (fetch s).map (State.withInput l) := by
  unfold fetch
  show (match memRead s s.bank.pc with | .error f => _ | .ok b => _) = _
  cases memRead s s.bank.pc with
  | error f => rfl
  | ok b => simp only; cases decode b <;> rfl

/-- `cycle()` does not look at the pending lines. -/
theorem cycle_withInput (l : List Line) (s : State) :
    cycle (s.withInput l) = mapNext (State.withInput l) (cycle s) := by
  cases hi : s.image with
  | none =>
    have : ∀ u : State, u.image = none → cycle u = .refused .noImage := by intro u h; simp [cycle, h]
    rw [this s hi, this (s.withInput l) hi]; rfl
  | some img =>
    have h1 : s.image ≠ none := by rw [hi]; simp
    cases hr : s.is.retired with
    | false => rw [cycle_inFlight h1 hr, cycle_inFlight (s := s.withInput l) h1 hr, runCycle_withInput]
    | true =>
      rw [cycle_retired h1 hr, cycle_retired (s := s.withInput l) h1 hr, fetch_withInput]
      cases fetch s with
      | error f => rfl
      | ok t => exact runCycle_withInput l t
end Sys2Proof.Machine
end

