-- ==== Sys2Proof/Laws/Invariant.lean ====
section
/-! SUPPORT. How the small operations of the debugger act on the invariant, what an instruction can do to memory, and
the parsing facts that tie a command to its line. -/

namespace Sys2Proof.Machine

/-! ## Memory and F under exec -/

/-- An instruction leaves memory, or writes one cell of a storage-backed address. -/
theorem exec_mem {i : Instr} {s t : State} (h : exec i s = .next t) :
    t.mem = s.mem ∨ ∃ a v, backing (classify a) = .storage ∧ t.mem = s.mem.write a.toNat v := by
  cases exec_next h with
  | nothing ht => subst ht; exact .inl rfl
  | loadRead _ _ _ v _ ht => subst ht; exact .inl rfl
  | loadWrite _ _ _ ht => subst ht; exact .inl rfl
  | move _ _ _ _ ht => subst ht; exact .inl rfl
  | store _ _ _ ht =>
    rcases memWrite_ok ht with ⟨hb, rfl⟩ | ⟨_, rfl⟩
    · exact .inr ⟨_, _, hb, rfl⟩
    · exact .inl rfl
  | jumpRead1 _ _ v _ ht => subst ht; exact .inl rfl
  | jumpRead2 _ _ v _ ht => subst ht; exact .inl rfl
  | jumpCommit _ _ ht => subst ht; exact .inl rfl

/-- Every instruction has at least one cycle (rule R120). -/
theorem one_le_cycles (i : Instr) : 1 ≤ i.cycles := by cases i <;> decide

/-! ## The history's form -/

theorem noAdjacentRepeat_drop {h : List Line} (hh : noAdjacentRepeat h = true) :
    noAdjacentRepeat (h.drop 1) = true := by
  cases h with
  | nil => rfl
  | cons x xs =>
    cases xs with
    | nil => rfl
    | cons y ys => simp [noAdjacentRepeat] at hh ⊢; exact hh.2

theorem noAdjacentRepeat_append {h : List Line} {l : Line} (hh : noAdjacentRepeat h = true)
    (hl : h.getLast? ≠ some l) : noAdjacentRepeat (h ++ [l]) = true := by
  induction h with
  | nil => rfl
  | cons x xs ih =>
    cases xs with
    | nil => simp [noAdjacentRepeat] at hl ⊢; exact hl
    | cons y ys =>
      simp only [noAdjacentRepeat, Bool.and_eq_true, decide_eq_true_eq] at hh
      have := ih hh.2 (by simpa [List.getLast?_cons_cons] using hl)
      simp only [List.cons_append, noAdjacentRepeat, Bool.and_eq_true, decide_eq_true_eq] at this ⊢
      exact ⟨hh.1, this⟩

/-! ## The invariant under the debugger's small operations -/

theorem State.Inv.print {s : State} (h : s.Inv) (o : List Output) : (s.print o).Inv :=
  ⟨h.1, h.2, h.3, h.4, h.5, h.6, h.7, h.8⟩

theorem State.Inv.dropInput {s : State} (h : s.Inv) : s.dropInput.Inv :=
  ⟨h.1, h.2, h.3, h.4, h.5, h.6, h.7, h.8⟩

theorem State.Inv.setBp {s : State} (h : s.Inv) {bp : List Word} (hb : bp.Nodup) : (s.setBp bp).Inv :=
  ⟨h.1, h.2, h.3, h.4, h.5, hb, h.7, h.8⟩

theorem State.Inv.setDbg {s : State} (h : s.Inv) (d : DbgState) (h1 : s.exitRequested = false)
    (h2 : d ≠ .terminated .exitRequested) : (s.setDbg d).Inv :=
  ⟨h.1, h.2, h.3, h.4, h.5, h.6, h.7, by simp [h1, h2]⟩

theorem State.Inv.setHist {s : State} (h : s.Inv) {hist : List Line} (hh : histWf Config.historyCapacity hist = true) :
    State.Inv { s with hist := hist } := ⟨h.1, h.2, h.3, h.4, h.5, h.6, hh, h.8⟩

theorem State.Inv.terminateOn {s : State} (h : s.Inv) (h1 : s.exitRequested = false) (f : Fault) {l : Line}
    (hh : histWf Config.historyCapacity (histPush Config.historyCapacity l s.hist) = true) :
    (s.terminateOn f l).Inv := ((h.print _).setDbg _ h1 (by simp)).setHist hh

theorem State.Inv.exitOn {s : State} (h : s.Inv) {l : Line}
    (hh : histWf Config.historyCapacity (histPush Config.historyCapacity l s.hist) = true) : (s.exitOn l).Inv :=
  ⟨h.1, h.2, h.3, h.4, h.5, h.6, hh, by simp⟩

theorem State.Inv.setFrame {s : State} (h : s.Inv) (fs : FrameState) : (s.setFrame fs).Inv :=
  ⟨h.1, h.2, h.3, h.4, h.5, h.6, h.7, h.8⟩

theorem State.Inv.stopFrame {s : State} (h : s.Inv) (f : Fault) : (s.stopFrame f).Inv := (h.print _).setFrame _

theorem State.Inv.not_exit {s : State} (h : s.Inv) (hd : s.dbg ≠ .terminated .exitRequested) :
    s.exitRequested = false := by
  cases he : s.exitRequested with
  | false => rfl
  | true => exact absurd (h.exitMatches.mp he) hd

/-! ## A command and its line -/

theorem splitSpaces_ne_nil (line : Line) : splitSpaces line ≠ [] := by
  cases line with
  | nil => simp [splitSpaces]
  | cons d ds =>
    unfold splitSpaces
    split
    · simp
    · cases splitSpaces ds <;> simp [consToFirst]

/-- A line of one token is that token. -/
theorem eq_of_splitSpaces {line tok : Line} (h : splitSpaces line = [tok]) : line = tok := by
  induction line generalizing tok with
  | nil => simp [splitSpaces] at h; exact h.symm
  | cons c cs ih =>
    unfold splitSpaces at h
    split at h
    · simp at h; exact absurd h.2 (splitSpaces_ne_nil cs)
    · cases hsp : splitSpaces cs with
      | nil => exact absurd hsp (splitSpaces_ne_nil cs)
      | cons x xs =>
        rw [hsp] at h
        simp [consToFirst] at h
        obtain ⟨h1, h2⟩ := h
        subst h2
        rw [ih hsp, h1]

theorem word_of_ofToken {tok : Line} {k : Keyword} (h : Keyword.ofToken tok = some k) : k.word = tok := by
  simpa using List.find?_some h

/-- The line of a command of one token is its keyword. -/
theorem line_of_parse {line : Line} {c : Command} {k : Keyword} (hk : k.arity = 1) (h : parseLine line = .ok c)
    (hc : ∀ k' args, k'.command args = .ok c → k' = k) : line = k.word := by
  unfold parseLine at h
  cases hs : splitSpaces line with
  | nil => exact absurd hs (splitSpaces_ne_nil line)
  | cons tok args =>
    rw [hs] at h
    unfold parseTokens at h
    cases ho : Keyword.ofToken tok with
    | none => simp [ho] at h
    | some k' =>
      simp only [ho] at h
      split at h
      · next ha =>
        have := hc k' args h
        subst this
        rw [hk] at ha
        have : args = [] := by cases args with | nil => rfl | cons _ _ => simp at ha
        subst this
        rw [eq_of_splitSpaces hs, word_of_ofToken ho]
      · cases h

/-- Only the keyword `history` gives the command `history`. -/
theorem command_history (k : Keyword) (args : List Line) (h : k.command args = .ok .history) : k = .history := by
  cases k <;> simp [Keyword.command] at h ⊢
  all_goals
    revert h
    cases args.head? with
    | none => simp
    | some x => cases hx : parseHex x <;> simp [hx]

end Sys2Proof.Machine
end

