-- ==== Sys2Proof/Laws/PerInstr.lean ====
section
/-! SUPPORT. Per-instruction law: the byte of rule R118 decodes to the instruction, and its tag fixes a cycle count
between 1 and 6 (rule R120). -/

namespace Sys2Proof.Laws

/-- DECODE of the instruction's opcode byte gives it back, and its cycle count is between 1 and 6. -/
def OpcodeRoundTrip.Statement (i : Instr) : Prop :=
  decode i.opcode = .recognized i ∧ 1 ≤ i.cycles ∧ i.cycles ≤ 6

theorem OpcodeRoundTrip.nop : OpcodeRoundTrip.Statement .nop := by unfold OpcodeRoundTrip.Statement; decide
theorem OpcodeRoundTrip.ld_B_n : OpcodeRoundTrip.Statement .ld_B_n := by unfold OpcodeRoundTrip.Statement; decide
theorem OpcodeRoundTrip.ld_C_n : OpcodeRoundTrip.Statement .ld_C_n := by unfold OpcodeRoundTrip.Statement; decide
theorem OpcodeRoundTrip.ld_D_n : OpcodeRoundTrip.Statement .ld_D_n := by unfold OpcodeRoundTrip.Statement; decide
theorem OpcodeRoundTrip.ld_E_n : OpcodeRoundTrip.Statement .ld_E_n := by unfold OpcodeRoundTrip.Statement; decide
theorem OpcodeRoundTrip.ld_H_n : OpcodeRoundTrip.Statement .ld_H_n := by unfold OpcodeRoundTrip.Statement; decide
theorem OpcodeRoundTrip.ld_L_n : OpcodeRoundTrip.Statement .ld_L_n := by unfold OpcodeRoundTrip.Statement; decide
theorem OpcodeRoundTrip.ld_A_n : OpcodeRoundTrip.Statement .ld_A_n := by unfold OpcodeRoundTrip.Statement; decide
theorem OpcodeRoundTrip.ld_B_B : OpcodeRoundTrip.Statement .ld_B_B := by unfold OpcodeRoundTrip.Statement; decide
theorem OpcodeRoundTrip.ld_B_C : OpcodeRoundTrip.Statement .ld_B_C := by unfold OpcodeRoundTrip.Statement; decide
theorem OpcodeRoundTrip.ld_B_D : OpcodeRoundTrip.Statement .ld_B_D := by unfold OpcodeRoundTrip.Statement; decide
theorem OpcodeRoundTrip.ld_B_E : OpcodeRoundTrip.Statement .ld_B_E := by unfold OpcodeRoundTrip.Statement; decide
theorem OpcodeRoundTrip.ld_B_H : OpcodeRoundTrip.Statement .ld_B_H := by unfold OpcodeRoundTrip.Statement; decide
theorem OpcodeRoundTrip.ld_B_L : OpcodeRoundTrip.Statement .ld_B_L := by unfold OpcodeRoundTrip.Statement; decide
theorem OpcodeRoundTrip.ld_B_A : OpcodeRoundTrip.Statement .ld_B_A := by unfold OpcodeRoundTrip.Statement; decide
theorem OpcodeRoundTrip.ld_C_B : OpcodeRoundTrip.Statement .ld_C_B := by unfold OpcodeRoundTrip.Statement; decide
theorem OpcodeRoundTrip.ld_C_C : OpcodeRoundTrip.Statement .ld_C_C := by unfold OpcodeRoundTrip.Statement; decide
theorem OpcodeRoundTrip.ld_C_D : OpcodeRoundTrip.Statement .ld_C_D := by unfold OpcodeRoundTrip.Statement; decide
theorem OpcodeRoundTrip.ld_C_E : OpcodeRoundTrip.Statement .ld_C_E := by unfold OpcodeRoundTrip.Statement; decide
theorem OpcodeRoundTrip.ld_C_H : OpcodeRoundTrip.Statement .ld_C_H := by unfold OpcodeRoundTrip.Statement; decide
theorem OpcodeRoundTrip.ld_C_L : OpcodeRoundTrip.Statement .ld_C_L := by unfold OpcodeRoundTrip.Statement; decide
theorem OpcodeRoundTrip.ld_C_A : OpcodeRoundTrip.Statement .ld_C_A := by unfold OpcodeRoundTrip.Statement; decide
theorem OpcodeRoundTrip.ld_D_B : OpcodeRoundTrip.Statement .ld_D_B := by unfold OpcodeRoundTrip.Statement; decide
theorem OpcodeRoundTrip.ld_D_C : OpcodeRoundTrip.Statement .ld_D_C := by unfold OpcodeRoundTrip.Statement; decide
theorem OpcodeRoundTrip.ld_D_D : OpcodeRoundTrip.Statement .ld_D_D := by unfold OpcodeRoundTrip.Statement; decide
theorem OpcodeRoundTrip.ld_D_E : OpcodeRoundTrip.Statement .ld_D_E := by unfold OpcodeRoundTrip.Statement; decide
theorem OpcodeRoundTrip.ld_D_H : OpcodeRoundTrip.Statement .ld_D_H := by unfold OpcodeRoundTrip.Statement; decide
theorem OpcodeRoundTrip.ld_D_L : OpcodeRoundTrip.Statement .ld_D_L := by unfold OpcodeRoundTrip.Statement; decide
theorem OpcodeRoundTrip.ld_D_A : OpcodeRoundTrip.Statement .ld_D_A := by unfold OpcodeRoundTrip.Statement; decide
theorem OpcodeRoundTrip.ld_E_B : OpcodeRoundTrip.Statement .ld_E_B := by unfold OpcodeRoundTrip.Statement; decide
theorem OpcodeRoundTrip.ld_E_C : OpcodeRoundTrip.Statement .ld_E_C := by unfold OpcodeRoundTrip.Statement; decide
theorem OpcodeRoundTrip.ld_E_D : OpcodeRoundTrip.Statement .ld_E_D := by unfold OpcodeRoundTrip.Statement; decide
theorem OpcodeRoundTrip.ld_E_E : OpcodeRoundTrip.Statement .ld_E_E := by unfold OpcodeRoundTrip.Statement; decide
theorem OpcodeRoundTrip.ld_E_H : OpcodeRoundTrip.Statement .ld_E_H := by unfold OpcodeRoundTrip.Statement; decide
theorem OpcodeRoundTrip.ld_E_L : OpcodeRoundTrip.Statement .ld_E_L := by unfold OpcodeRoundTrip.Statement; decide
theorem OpcodeRoundTrip.ld_E_A : OpcodeRoundTrip.Statement .ld_E_A := by unfold OpcodeRoundTrip.Statement; decide
theorem OpcodeRoundTrip.ld_H_B : OpcodeRoundTrip.Statement .ld_H_B := by unfold OpcodeRoundTrip.Statement; decide
theorem OpcodeRoundTrip.ld_H_C : OpcodeRoundTrip.Statement .ld_H_C := by unfold OpcodeRoundTrip.Statement; decide
theorem OpcodeRoundTrip.ld_H_D : OpcodeRoundTrip.Statement .ld_H_D := by unfold OpcodeRoundTrip.Statement; decide
theorem OpcodeRoundTrip.ld_H_E : OpcodeRoundTrip.Statement .ld_H_E := by unfold OpcodeRoundTrip.Statement; decide
theorem OpcodeRoundTrip.ld_H_H : OpcodeRoundTrip.Statement .ld_H_H := by unfold OpcodeRoundTrip.Statement; decide
theorem OpcodeRoundTrip.ld_H_L : OpcodeRoundTrip.Statement .ld_H_L := by unfold OpcodeRoundTrip.Statement; decide
theorem OpcodeRoundTrip.ld_H_A : OpcodeRoundTrip.Statement .ld_H_A := by unfold OpcodeRoundTrip.Statement; decide
theorem OpcodeRoundTrip.ld_L_B : OpcodeRoundTrip.Statement .ld_L_B := by unfold OpcodeRoundTrip.Statement; decide
theorem OpcodeRoundTrip.ld_L_C : OpcodeRoundTrip.Statement .ld_L_C := by unfold OpcodeRoundTrip.Statement; decide
theorem OpcodeRoundTrip.ld_L_D : OpcodeRoundTrip.Statement .ld_L_D := by unfold OpcodeRoundTrip.Statement; decide
theorem OpcodeRoundTrip.ld_L_E : OpcodeRoundTrip.Statement .ld_L_E := by unfold OpcodeRoundTrip.Statement; decide
theorem OpcodeRoundTrip.ld_L_H : OpcodeRoundTrip.Statement .ld_L_H := by unfold OpcodeRoundTrip.Statement; decide
theorem OpcodeRoundTrip.ld_L_L : OpcodeRoundTrip.Statement .ld_L_L := by unfold OpcodeRoundTrip.Statement; decide
theorem OpcodeRoundTrip.ld_L_A : OpcodeRoundTrip.Statement .ld_L_A := by unfold OpcodeRoundTrip.Statement; decide
theorem OpcodeRoundTrip.ld_atHL_B : OpcodeRoundTrip.Statement .ld_atHL_B := by unfold OpcodeRoundTrip.Statement; decide
theorem OpcodeRoundTrip.ld_atHL_C : OpcodeRoundTrip.Statement .ld_atHL_C := by unfold OpcodeRoundTrip.Statement; decide
theorem OpcodeRoundTrip.ld_atHL_D : OpcodeRoundTrip.Statement .ld_atHL_D := by unfold OpcodeRoundTrip.Statement; decide
theorem OpcodeRoundTrip.ld_atHL_E : OpcodeRoundTrip.Statement .ld_atHL_E := by unfold OpcodeRoundTrip.Statement; decide
theorem OpcodeRoundTrip.ld_atHL_H : OpcodeRoundTrip.Statement .ld_atHL_H := by unfold OpcodeRoundTrip.Statement; decide
theorem OpcodeRoundTrip.ld_atHL_L : OpcodeRoundTrip.Statement .ld_atHL_L := by unfold OpcodeRoundTrip.Statement; decide
theorem OpcodeRoundTrip.ld_atHL_A : OpcodeRoundTrip.Statement .ld_atHL_A := by unfold OpcodeRoundTrip.Statement; decide
theorem OpcodeRoundTrip.ld_A_B : OpcodeRoundTrip.Statement .ld_A_B := by unfold OpcodeRoundTrip.Statement; decide
theorem OpcodeRoundTrip.ld_A_C : OpcodeRoundTrip.Statement .ld_A_C := by unfold OpcodeRoundTrip.Statement; decide
theorem OpcodeRoundTrip.ld_A_D : OpcodeRoundTrip.Statement .ld_A_D := by unfold OpcodeRoundTrip.Statement; decide
theorem OpcodeRoundTrip.ld_A_E : OpcodeRoundTrip.Statement .ld_A_E := by unfold OpcodeRoundTrip.Statement; decide
theorem OpcodeRoundTrip.ld_A_H : OpcodeRoundTrip.Statement .ld_A_H := by unfold OpcodeRoundTrip.Statement; decide
theorem OpcodeRoundTrip.ld_A_L : OpcodeRoundTrip.Statement .ld_A_L := by unfold OpcodeRoundTrip.Statement; decide
theorem OpcodeRoundTrip.ld_A_A : OpcodeRoundTrip.Statement .ld_A_A := by unfold OpcodeRoundTrip.Statement; decide
theorem OpcodeRoundTrip.jp_nn : OpcodeRoundTrip.Statement .jp_nn := by unfold OpcodeRoundTrip.Statement; decide

end Sys2Proof.Laws
end

