-- ==== Sys2Proof/Tests/Slice0.lean ====
section
/-! SUPPORT. The model's own tests. Expected values are the spec's: the byte lists of rule R118, and the vectors V<n> of
spec/95_test_vectors.md, named in each docstring. The second half holds a witness for the hypotheses of every statement
of Certificates/Slice0/Obligations.lean. -/

namespace Sys2Proof.Tests

open Sys2Proof Sys2Proof.Machine

/-! ## Helpers -/

/-- The next state of an outcome. -/
def nextOf : Host.Outcome State Fault Refusal → Option State
  | .next t => some t
  | .fault _ => none
  | .refused _ => none

/-- The fault of an outcome. -/
def faultOf : Host.Outcome State Fault Refusal → Option Fault
  | .next _ => none
  | .fault f => some f
  | .refused _ => none

/-- The value of a read or write that succeeds. -/
def okOf {ε α : Type} : Except ε α → Option α
  | .error _ => none
  | .ok v => some v

/-- The failure of a read or write. -/
def errOf {ε α : Type} : Except ε α → Option ε
  | .error e => some e
  | .ok _ => none

theorem exists_next {o : Host.Outcome State Fault Refusal} (h : (nextOf o).isSome = true) : ∃ t, o = .next t := by
  cases o with
  | next t => exact ⟨t, rfl⟩
  | fault f => cases h
  | refused r => cases h

theorem eq_next {o : Host.Outcome State Fault Refusal} {t : State} (h : nextOf o = some t) : o = .next t := by
  cases o with
  | next u => cases h; rfl
  | fault f => cases h
  | refused r => cases h

theorem eq_fault {o : Host.Outcome State Fault Refusal} {f : Fault} (h : faultOf o = some f) : o = .fault f := by
  cases o with
  | next u => cases h
  | fault g => cases h; rfl
  | refused r => cases h

theorem eq_ok {ε α : Type} {x : Except ε α} {v : α} (h : okOf x = some v) : x = .ok v := by
  cases x with
  | error e => cases h
  | ok w => cases h; rfl

theorem eq_error {ε α : Type} {x : Except ε α} {e : ε} (h : errOf x = some e) : x = .error e := by
  cases x with
  | error e => cases h; rfl
  | ok w => cases h

/-- The start state of the vectors: reset with a 32768-byte image that is zero but for `cells`. -/
def start (cells : Memory) : State := attachImage { len := 0x8000, cells := cells } State.reset

/-- Distinct register values, those of V31 with F = 0xC0 and `xx[HL]` given. -/
def bankAt (pc hl : Word) : RegBank :=
  { a := 0x07#8, b := 0x01#8, c := 0x02#8, d := 0x03#8, e := 0x04#8, f := 0xC0#8, h := hiByte hl, l := loByte hl,
    pc := pc, sp := 0xFFFE#16 }

/-- An engine with an instruction in flight at a cycle. -/
def inFlight (i : Instr) (counter : Nat) (op1 op2 : Byte) : InstructionState :=
  { instr := some i, counter := counter, op1 := op1, op2 := op2 }

/-- The start state with other registers, InstructionState and storage. -/
def at' (bank : RegBank) (is : InstructionState) (mem : Memory) (cells : Memory) : State :=
  { start cells with bank := bank, is := is, mem := mem }

/-- A debugger session on a state, in a control state, with breakpoints and pending lines. -/
def session (s : State) (dbg : DbgState) (bp : List Word) (input : List Line) : State :=
  { s with driver := .debugger, dbg := dbg, bp := bp, input := input }

/-- A frame loop that a fault has ended. -/
def ended (s : State) (f : Fault) : State := { s with frame := .terminated f, out := [.fault f] }

/-- The invariant of a state with an empty history, by evaluation. -/
theorem inv_of {s : State} (hh : s.hist = [])
    (h : s.bank.f &&& 0x0F#8 = 0x00#8 ∧ s.mem.wf = true ∧ s.mem.keysIn storageBacked = true ∧
      s.is.counter ≤ s.is.cycles ∧ (s.is.instr ≠ none → 1 ≤ s.is.counter) ∧ s.bp.Nodup ∧
      (s.exitRequested = true ↔ s.dbg = .terminated .exitRequested)) : s.Inv :=
  ⟨h.1, h.2.1, h.2.2.1, h.2.2.2.1, h.2.2.2.2.1, h.2.2.2.2.2.1, by rw [hh]; simp [histWf, noAdjacentRepeat],
    h.2.2.2.2.2.2⟩

/-! ## WellFormed -/

/-- The check refuses an instruction with the wrong number of operand bytes, in each of the three formats. -/
theorem test_wellFormed_refuses :
    StreamInstr.wellFormed { instr := .nop, operands := [0x00#8] } = false ∧
    StreamInstr.wellFormed { instr := .ld_B_n, operands := [] } = false ∧
    StreamInstr.wellFormed { instr := .ld_B_n, operands := [0x12#8, 0x34#8] } = false ∧
    StreamInstr.wellFormed { instr := .ld_B_C, operands := [0x00#8] } = false ∧
    StreamInstr.wellFormed { instr := .ld_atHL_A, operands := [0x00#8] } = false ∧
    StreamInstr.wellFormed { instr := .jp_nn, operands := [0x13#8] } = false := by decide

theorem test_wellFormed_accepts :
    StreamInstr.wellFormed { instr := .nop, operands := [] } = true ∧
    StreamInstr.wellFormed { instr := .ld_B_n, operands := [0x12#8] } = true ∧
    StreamInstr.wellFormed { instr := .jp_nn, operands := [0x13#8, 0x37#8] } = true := by decide

/-! ## Decoding: every constructor by a byte written from the fields of rules R114, R115 and R118 -/

theorem test_decode_whole_bytes :
    [0b00000000#8, 0b11000011#8].map decode = [.recognized .nop, .recognized .jp_nn] := by decide

/-- `00 ddd 110`. -/
theorem test_decode_load_immediate :
    [0b00000110#8, 0b00001110#8, 0b00010110#8, 0b00011110#8, 0b00100110#8, 0b00101110#8, 0b00111110#8].map decode =
    [.recognized .ld_B_n, .recognized .ld_C_n, .recognized .ld_D_n, .recognized .ld_E_n, .recognized .ld_H_n,
     .recognized .ld_L_n, .recognized .ld_A_n] := by decide

/-- `01 000 sss`, with the source code 110 unrecognized (V28). -/
theorem test_decode_move_to_B :
    [0b01000000#8, 0b01000001#8, 0b01000010#8, 0b01000011#8, 0b01000100#8, 0b01000101#8, 0b01000110#8,
     0b01000111#8].map decode =
    [.recognized .ld_B_B, .recognized .ld_B_C, .recognized .ld_B_D, .recognized .ld_B_E, .recognized .ld_B_H,
     .recognized .ld_B_L, .unrecognized, .recognized .ld_B_A] := by decide

/-- `01 001 sss`. -/
theorem test_decode_move_to_C :
    [0b01001000#8, 0b01001001#8, 0b01001010#8, 0b01001011#8, 0b01001100#8, 0b01001101#8, 0b01001110#8,
     0b01001111#8].map decode =
    [.recognized .ld_C_B, .recognized .ld_C_C, .recognized .ld_C_D, .recognized .ld_C_E, .recognized .ld_C_H,
     .recognized .ld_C_L, .unrecognized, .recognized .ld_C_A] := by decide

/-- `01 010 sss`. -/
theorem test_decode_move_to_D :
    [0b01010000#8, 0b01010001#8, 0b01010010#8, 0b01010011#8, 0b01010100#8, 0b01010101#8, 0b01010110#8,
     0b01010111#8].map decode =
    [.recognized .ld_D_B, .recognized .ld_D_C, .recognized .ld_D_D, .recognized .ld_D_E, .recognized .ld_D_H,
     .recognized .ld_D_L, .unrecognized, .recognized .ld_D_A] := by decide

/-- `01 011 sss`. -/
theorem test_decode_move_to_E :
    [0b01011000#8, 0b01011001#8, 0b01011010#8, 0b01011011#8, 0b01011100#8, 0b01011101#8, 0b01011110#8,
     0b01011111#8].map decode =
    [.recognized .ld_E_B, .recognized .ld_E_C, .recognized .ld_E_D, .recognized .ld_E_E, .recognized .ld_E_H,
     .recognized .ld_E_L, .unrecognized, .recognized .ld_E_A] := by decide

/-- `01 100 sss`. -/
theorem test_decode_move_to_H :
    [0b01100000#8, 0b01100001#8, 0b01100010#8, 0b01100011#8, 0b01100100#8, 0b01100101#8, 0b01100110#8,
     0b01100111#8].map decode =
    [.recognized .ld_H_B, .recognized .ld_H_C, .recognized .ld_H_D, .recognized .ld_H_E, .recognized .ld_H_H,
     .recognized .ld_H_L, .unrecognized, .recognized .ld_H_A] := by decide

/-- `01 101 sss`. -/
theorem test_decode_move_to_L :
    [0b01101000#8, 0b01101001#8, 0b01101010#8, 0b01101011#8, 0b01101100#8, 0b01101101#8, 0b01101110#8,
     0b01101111#8].map decode =
    [.recognized .ld_L_B, .recognized .ld_L_C, .recognized .ld_L_D, .recognized .ld_L_E, .recognized .ld_L_H,
     .recognized .ld_L_L, .unrecognized, .recognized .ld_L_A] := by decide

/-- `01 110 sss`: the stores, with 0x76 unrecognized (V28). -/
theorem test_decode_store :
    [0b01110000#8, 0b01110001#8, 0b01110010#8, 0b01110011#8, 0b01110100#8, 0b01110101#8, 0b01110110#8,
     0b01110111#8].map decode =
    [.recognized .ld_atHL_B, .recognized .ld_atHL_C, .recognized .ld_atHL_D, .recognized .ld_atHL_E,
     .recognized .ld_atHL_H, .recognized .ld_atHL_L, .unrecognized, .recognized .ld_atHL_A] := by decide

/-- `01 111 sss`. -/
theorem test_decode_move_to_A :
    [0b01111000#8, 0b01111001#8, 0b01111010#8, 0b01111011#8, 0b01111100#8, 0b01111101#8, 0b01111110#8,
     0b01111111#8].map decode =
    [.recognized .ld_A_B, .recognized .ld_A_C, .recognized .ld_A_D, .recognized .ld_A_E, .recognized .ld_A_H,
     .recognized .ld_A_L, .unrecognized, .recognized .ld_A_A] := by decide

/-- Bytes of no instruction: V11, V28, and neighbours of the listed ones. -/
theorem test_decode_unlisted :
    ([0xD3#8, 0x36#8, 0x76#8, 0x01#8, 0x07#8, 0x80#8, 0xC2#8, 0xC4#8, 0xCB#8, 0xFF#8].map decode).all
      (fun r => decide (r = .unrecognized)) = true := by decide

/-- A stream: high byte of the target first (V2), the rest left over, a stream that ends too early. -/
theorem test_decodeStream :
    decodeStream [0xC3#8, 0x13#8, 0x37#8, 0x00#8] = .ok (jumpTo 0x1337#16) [0x00#8] ∧
    decodeStream [0x06#8, 0x12#8, 0xD3#8] = .ok { instr := .ld_B_n, operands := [0x12#8] } [0xD3#8] ∧
    decodeStream [0xC3#8, 0x13#8] = .truncated .jp_nn ∧ decodeStream [0xD3#8] = .unrecognized 0xD3#8 ∧
    decodeStream [] = .empty := by decide

theorem test_decodeTableWord :
    decodeTableWord 24 0x3713C3 = some .jp_nn ∧ decodeTableWord 8 0x06 = some .ld_B_n ∧
    decodeTableWord 8 0x76 = none := by decide

/-- The next step runs the placed word: two families of one cycle and one whose operand bytes are placed too. -/
theorem test_withFetchWord :
    (nextOf (step (State.reset.withFetchWord 8 0x48))).map (fun t => t.is) = some (inFlight .ld_C_B 1 0x00#8 0x00#8) ∧
    (nextOf (step (State.reset.withFetchWord 16 0x1206))).map (fun t => t.is) =
      some (inFlight .ld_B_n 1 0x12#8 0x00#8) ∧
    (nextOf (step (State.reset.withFetchWord 24 0x3713C3))).map (fun t => t.is) =
      some (inFlight .jp_nn 1 0x00#8 0x00#8) := by decide

/-! ## Reset and the register bank -/

/-- R46: the values after reset. -/
theorem test_reset :
    State.reset.bank.pc = 0x0100#16 ∧ State.reset.bank.sp = 0xFFFE#16 ∧ State.reset.is = .powerOn ∧
    State.reset.is.retired = true ∧ State.reset.mem.wf = true ∧ State.reset.bp = [] ∧ State.reset.dbg = .idle := by
  decide

/-- V14. -/
theorem test_write_F :
    (State.reset.bank.set .F 0xFF#8).f = 0xF0#8 ∧ (State.reset.bank.set .F 0x0F#8).f = 0x00#8 ∧
    (State.reset.bank.set .F 0xA5#8).f = 0xA0#8 ∧
    ([Flag.Z, .N, .H, .C].map (State.reset.bank.set .F 0xA5#8).flag) = [true, false, true, false] := by decide

/-- V15. -/
theorem test_read_pair :
    ({ State.reset.bank with b := 0x12#8, c := 0x34#8 } : RegBank).getPair .BC = 0x1234#16 ∧
    ({ State.reset.bank with a := 0xAB#8, f := 0xC0#8 } : RegBank).getPair .AF = 0xABC0#16 ∧
    ({ State.reset.bank with h := 0xC3#8, l := 0x37#8 } : RegBank).getPair .HL = 0xC337#16 := by decide

/-- V16. -/
theorem test_write_pair :
    State.reset.bank.setPair .DE 0xBEEF#16 = { State.reset.bank with d := 0xBE#8, e := 0xEF#8 } ∧
    State.reset.bank.setPair .AF 0x12FF#16 = { State.reset.bank with a := 0x12#8, f := 0xF0#8 } ∧
    (State.reset.bank.setPair .AF 0x12FF#16).getPair .AF = 0x12F0#16 := by decide

/-- V17. -/
theorem test_set_flag :
    (State.reset.bank.setFlag .C true).f = 0x10#8 ∧
    ((State.reset.bank.setFlag .C true).setFlag .Z true).f = 0x90#8 ∧
    (((State.reset.bank.setFlag .C true).setFlag .Z true).setFlag .C false).f = 0x80#8 := by decide

/-! ## The address space -/

/-- V50. -/
theorem test_region_boundaries :
    [0x3FFF#16, 0x4000#16, 0x7FFF#16, 0x8000#16, 0x9FFF#16, 0xA000#16, 0xBFFF#16, 0xC000#16, 0xDFFF#16, 0xE000#16,
     0xFDFF#16, 0xFE00#16, 0xFE9F#16, 0xFEA0#16, 0xFEFF#16, 0xFF00#16, 0xFF7F#16, 0xFF80#16, 0xFFFE#16,
     0xFFFF#16].map classify =
    [.ROM0, .ROMX, .ROMX, .VRAM, .VRAM, .EXTRAM, .EXTRAM, .WRAM, .WRAM, .ECHO, .ECHO, .OAM, .OAM, .GAP, .GAP, .IO, .IO,
     .HRAM, .HRAM, .IE] := by decide

/-- R63, of the default map. -/
theorem test_map_covers : RegionMap.coversFrom 0 regionMap = true := by decide

/-- V51: the array and the index behind an address. -/
theorem test_normalisation :
    storageCell 0xC337#16 = some (storageKey .WRAM 0x0337) ∧ storageCell 0xE337#16 = some (storageKey .WRAM 0x0337) ∧
    storageCell 0x8123#16 = some (storageKey .VRAM 0x0123) ∧ storageCell 0xFE10#16 = some (storageKey .OAM 0x10) ∧
    storageCell 0xFF42#16 = some (storageKey .IO 0x42) ∧ storageCell 0xFF90#16 = some (storageKey .HRAM 0x10) ∧
    storageCell 0x4000#16 = none := by decide

/-- V52. -/
theorem test_imageRead :
    let img : Image := { len := 5, cells := [(0, 0x12#8), (1, 0x34#8), (2, 0x56#8), (3, 0x78#8), (4, 0x9A#8)] }
    okOf (imageRead img 0 1) = some 0x12 ∧ okOf (imageRead img 0 2) = some 0x1234 ∧
    okOf (imageRead img 1 4) = some 0x3456789A ∧ errOf (imageRead img 0 5) = some .countTooHigh ∧
    errOf (imageRead img 2 4) = some .outOfBounds ∧ okOf (imageRead img 4 1) = some 0x9A ∧
    errOf (imageRead img 5 1) = some .outOfBounds ∧ errOf (imageRead img 3 5) = some .countTooHigh := by decide

/-- A write removes the entry when the value is the unlisted one, and equal memories are equal lists. -/
theorem test_memory_canonical :
    Memory.write (Memory.write [] 0xC000 0x5A#8) 0xC000 0x00#8 = [] ∧
    Memory.write (Memory.write [] 0xC001 0x01#8) 0xC000 0x02#8 =
      Memory.write (Memory.write [] 0xC000 0x02#8) 0xC001 0x01#8 ∧
    Memory.wf [(0xC001, 0x01#8), (0xC000, 0x02#8)] = false ∧ Memory.wf [(0xC000, 0x00#8)] = false := by decide

/-! ## NOP and JP nn -/

/-- V1. -/
theorem test_nop : nextOf (cycle (start [])) = some (at' { State.reset.bank with pc := 0x0101#16 }
    (inFlight .nop 1 0x00#8 0x00#8) [] []) := by decide

/-- V32: the fetch wraps. -/
theorem test_nop_wrap : (nextOf (cycle (at' (bankAt 0xFFFF#16 0xC000#16) .powerOn [] []))).map (fun t => t.bank.pc) =
    some 0x0000#16 := by decide

/-- V2, call 3: the second operand byte. -/
theorem test_jp_cycle3 :
    nextOf (cycle (at' (bankAt 0x0102#16 0xC000#16) (inFlight .jp_nn 2 0x13#8 0x00#8) [] [(0x0102, 0x37#8)])) =
    some (at' (bankAt 0x0103#16 0xC000#16) (inFlight .jp_nn 3 0x13#8 0x37#8) [] [(0x0102, 0x37#8)]) := by decide

/-- V2, call 4: the commit, first operand byte high (V38). -/
theorem test_jp_cycle4 :
    nextOf (cycle (at' (bankAt 0x0103#16 0xC000#16) (inFlight .jp_nn 3 0x13#8 0x37#8) [] [])) =
    some (at' (bankAt 0x1337#16 0xC000#16) (inFlight .jp_nn 4 0x13#8 0x37#8) [] []) := by decide

/-! ## LD r,n -/

/-- V4, call 1. -/
theorem test_load_immediate_call1 : nextOf (cycle (start [(0x0100, 0x06#8), (0x0101, 0x12#8)])) =
    some (at' { State.reset.bank with pc := 0x0102#16 } (inFlight .ld_B_n 1 0x12#8 0x00#8) []
      [(0x0100, 0x06#8), (0x0101, 0x12#8)]) := by decide

/-- V20, cycle 2 of each destination: the register named by the opcode holds the operand, and no other changed. -/
theorem test_load_immediate_cycle2 :
    [Instr.ld_B_n, .ld_C_n, .ld_D_n, .ld_E_n, .ld_H_n, .ld_L_n, .ld_A_n].map
      (fun i => (nextOf (cycle (at' (bankAt 0x0102#16 0x5566#16) (inFlight i 1 0xEE#8 0x00#8) [] []))).map
        fun t => t.bank) =
    [some { bankAt 0x0102#16 0x5566#16 with b := 0xEE#8 }, some { bankAt 0x0102#16 0x5566#16 with c := 0xEE#8 },
     some { bankAt 0x0102#16 0x5566#16 with d := 0xEE#8 }, some { bankAt 0x0102#16 0x5566#16 with e := 0xEE#8 },
     some { bankAt 0x0102#16 0x5566#16 with h := 0xEE#8 }, some { bankAt 0x0102#16 0x5566#16 with l := 0xEE#8 },
     some { bankAt 0x0102#16 0x5566#16 with a := 0xEE#8 }] := by decide

/-- V22, call 1: opcode at 0xFFFE, operand at 0xFFFF, `pc` wraps. -/
theorem test_load_immediate_wrap :
    (nextOf (cycle (at' (bankAt 0xFFFE#16 0xC000#16) .powerOn [(0xFFFE, 0x06#8), (0xFFFF, 0x12#8)] []))).map
      (fun t => (t.bank.pc, t.is)) = some (0x0000#16, inFlight .ld_B_n 1 0x12#8 0x00#8) := by decide

/-- V24: the operand lies in the gap, and the whole call is undone. -/
theorem test_load_immediate_fault :
    faultOf (cycle (at' (bankAt 0xFE9F#16 0xC000#16) .powerOn [(0xFE9F, 0x3E#8)] [])) = some (.unreadable 0xFEA0#16) := by
  decide

/-! ## LD r,r' -/

/-- What each register holds after the move, for the sources B, C, D, E, H, L, A in this order: with `xx[HL]` = 0x5566
they hold 01, 02, 03, 04, 55, 66, 07. -/
def movesInto (q : Reg8) (is : List Instr) : List (Option Byte) :=
  is.map fun i => (nextOf (exec i (at' (bankAt 0x0101#16 0x5566#16) (inFlight i 1 0x00#8 0x00#8) [] []))).map
    fun t => t.bank.get q

/-- The seven source values. -/
def sourceValues : List (Option Byte) :=
  [some 0x01#8, some 0x02#8, some 0x03#8, some 0x04#8, some 0x55#8, some 0x66#8, some 0x07#8]

theorem test_move_to_B : movesInto .B [.ld_B_B, .ld_B_C, .ld_B_D, .ld_B_E, .ld_B_H, .ld_B_L, .ld_B_A] =
    sourceValues := by decide

theorem test_move_to_C : movesInto .C [.ld_C_B, .ld_C_C, .ld_C_D, .ld_C_E, .ld_C_H, .ld_C_L, .ld_C_A] =
    sourceValues := by decide

theorem test_move_to_D : movesInto .D [.ld_D_B, .ld_D_C, .ld_D_D, .ld_D_E, .ld_D_H, .ld_D_L, .ld_D_A] =
    sourceValues := by decide

theorem test_move_to_E : movesInto .E [.ld_E_B, .ld_E_C, .ld_E_D, .ld_E_E, .ld_E_H, .ld_E_L, .ld_E_A] =
    sourceValues := by decide

theorem test_move_to_H : movesInto .H [.ld_H_B, .ld_H_C, .ld_H_D, .ld_H_E, .ld_H_H, .ld_H_L, .ld_H_A] =
    sourceValues := by decide

theorem test_move_to_L : movesInto .L [.ld_L_B, .ld_L_C, .ld_L_D, .ld_L_E, .ld_L_H, .ld_L_L, .ld_L_A] =
    sourceValues := by decide

theorem test_move_to_A : movesInto .A [.ld_A_B, .ld_A_C, .ld_A_D, .ld_A_E, .ld_A_H, .ld_A_L, .ld_A_A] =
    sourceValues := by decide

/-- V26: one call, the source unchanged. -/
theorem test_move_whole : (nextOf (cycle { start [(0x0100, 0x48#8)] with bank := bankAt 0x0100#16 0x1122#16 })).map
    (fun t => (t.bank, t.is)) =
    some ({ bankAt 0x0101#16 0x1122#16 with c := 0x01#8 }, inFlight .ld_C_B 1 0x00#8 0x00#8) := by decide

/-! ## LD (HL),r -/

/-- V31: the seven sources store into `wram[0]`. -/
theorem test_store_sources :
    [Instr.ld_atHL_B, .ld_atHL_C, .ld_atHL_D, .ld_atHL_E, .ld_atHL_H, .ld_atHL_L, .ld_atHL_A].map
      (fun i => (nextOf (cycle (at' (bankAt 0x0101#16 0xC000#16) (inFlight i 1 0x00#8 0x00#8) [] []))).map
        fun t => t.arrayByte .WRAM 0) =
    [some 0x01#8, some 0x02#8, some 0x03#8, some 0x04#8, some 0xC0#8, some 0x00#8, some 0x07#8] := by decide

/-- The second call of `LD (HL),A` with A = 0xA5 (V29): the byte read back at HL, and the fault. -/
def storeA5 (hl : Word) : Option Byte × Option Fault :=
  let s := at' { bankAt 0x0101#16 hl with a := 0xA5#8 } (inFlight .ld_atHL_A 1 0x00#8 0x00#8) [] []
  ((nextOf (cycle s)).bind fun t => okOf (memRead t hl), faultOf (cycle s))

/-- V29, the regions that accept the store. -/
theorem test_store_accepted :
    ([0x8000#16, 0x9FFF#16, 0xC000#16, 0xDFFF#16, 0xFE9F#16, 0xFF00#16, 0xFF7F#16, 0xFF80#16, 0xFFFE#16,
      0xFFFF#16].map storeA5).all (fun r => decide (r = (some 0xA5#8, none))) = true ∧
    storeA5 0xA000#16 = (some 0x00#8, none) ∧ storeA5 0xBFFF#16 = (some 0x00#8, none) := by decide

/-- V29 and V3a, the regions that refuse it. -/
theorem test_store_faults :
    [0x1337#16, 0x7FFF#16, 0xE010#16, 0xFDFF#16, 0xFEA0#16, 0xFEFF#16].map storeA5 =
    [(none, some (.readOnly 0x1337#16)), (none, some (.readOnly 0x7FFF#16)), (none, some (.readOnly 0xE010#16)),
     (none, some (.readOnly 0xFDFF#16)), (none, some (.unwritable 0xFEA0#16)),
     (none, some (.unwritable 0xFEFF#16))] := by decide

/-- V3b: the store shows through the echo, and no register changes. -/
theorem test_store_echo :
    (nextOf (cycle (at' { bankAt 0x0101#16 0xC337#16 with a := 0xFF#8 } (inFlight .ld_atHL_A 1 0x00#8 0x00#8) []
      []))).map (fun t => (okOf (memRead t 0xC337#16), okOf (memRead t 0xE337#16), t.bank)) =
    some (some 0xFF#8, some 0xFF#8, { bankAt 0x0101#16 0xC337#16 with a := 0xFF#8 }) := by decide

/-! ## Faults, peek and outcome codes -/

/-- V33, V34, V80, V11: the faults of the fetch, and the order of the checks. -/
theorem test_fetch_faults :
    faultOf (cycle (at' (bankAt 0xFEA0#16 0xC000#16) .powerOn [] [])) = some (.unreadable 0xFEA0#16) ∧
    faultOf (cycle { start [] with image := some { len := 0x0100, cells := [] } }) =
      some (.outOfBounds 0x0100#16) ∧
    faultOf (cycle (at' (bankAt 0xFE9F#16 0xC000#16) .powerOn [(0xFE9F, 0xD3#8)] [])) =
      some (.invalidOpcode 0xD3#8 0xFE9F#16) ∧
    outcomeCode (cycle { State.reset with bank := bankAt 0xFEA0#16 0xC000#16 }) = 1 := by decide

/-- V75, V76, V11, V39. -/
theorem test_peek :
    peek (start [(0x0100, 0x06#8)]) = .instr (inFlight .ld_B_n 0 0x00#8 0x00#8) ∧
    peek (at' (bankAt 0x0102#16 0xC000#16) (inFlight .ld_B_n 1 0x12#8 0x00#8) [] []) =
      .instr (inFlight .ld_B_n 1 0x12#8 0x00#8) ∧
    peek (at' (bankAt 0x0102#16 0xC000#16) (inFlight .ld_B_n 2 0x12#8 0x00#8) [] [(0x0102, 0xD3#8)]) =
      .raw 0xD3#8 0x0102#16 ∧
    peek (at' (bankAt 0xFEA0#16 0xC000#16) .powerOn [] []) = .fault (.unreadable 0xFEA0#16) ∧
    peek State.reset = .noImage := by decide

/-- V82. -/
theorem test_outcome_codes :
    outcomeCode (cycle (start [])) = 0 ∧ outcomeCode (cycle State.reset) = 1 ∧
    outcomeCode (cycle (start [(0x0100, 0xD3#8)])) = 2 ∧ outcomeCode (.fault (.unreadable 0xFEA0#16)) = 3 ∧
    outcomeCode (.fault (.outOfBounds 0x0150#16)) = 4 ∧ outcomeCode (.fault (.countTooHigh 0x0000#16)) = 5 ∧
    outcomeCode (.fault (.readOnly 0x1337#16)) = 6 ∧ outcomeCode (.fault (.unwritable 0xFEA0#16)) = 7 := by decide

/-! ## The debugger -/

/-- The kind of a parse error. -/
def errorOf (line : String) : Option ParseError := errOf (parseLine line.toList)

/-- V60. -/
theorem test_unknown_command :
    (["foo", "", "Break-add 1A", "foo bar baz", " step"].map errorOf).all (fun e => decide (e = some .unknownCommand)) =
      true := by decide

/-- V60. -/
theorem test_wrong_arity :
    (["break-add", "break-add 1 2", "break-add  1A", "step now", "history ", "exit now"].map errorOf).all
      (fun e => decide (e = some .wrongArity)) = true := by decide

/-- V60. -/
theorem test_bad_address :
    (["break-add 0xZZ", "break-add 10000", "break-add 0x", "break-add 0X1A", "break-add -1",
      "break-remove xyz"].map errorOf).all (fun e => decide (e = some .badAddress)) = true := by decide

/-- V7, V8, V61. -/
theorem test_addresses :
    (["0x1A", "1A", "0x1A2B", "1A2B", "ffff", "0xFfFf", "0", "0001A", "0x0000"].map fun x => parseHex x.toList) =
    [some 0x001A#16, some 0x001A#16, some 0x1A2B#16, some 0x1A2B#16, some 0xFFFF#16, some 0xFFFF#16, some 0x0000#16,
     some 0x001A#16, some 0x0000#16] := by decide

/-- The eleven keywords of rule R212. -/
theorem test_keywords :
    (["break-add 0", "break-remove 0", "break-list", "continue", "continue-until-not-impl", "step", "next", "registers",
      "history", "help", "exit"].map fun x => okOf (parseLine x.toList)) =
    [some (.breakAdd 0x0000#16), some (.breakRemove 0x0000#16), some .breakList, some .continue_,
     some .continueUntilNotImpl, some .step, some .next, some .registers, some .history, some .help, some .exit] := by
  decide

/-- V10 and V12. -/
theorem test_displays :
    breakpointLines [0x0150#16, 0x001A#16] = [.text "0x0150".toList, .text "0x001A".toList] ∧
    registerLines { State.reset.bank with a := 0xAB#8 } =
      (["A: 0xAB", "B: 0x00", "C: 0x00", "D: 0x00", "E: 0x00", "F: 0x00", "H: 0x00", "L: 0x00", "PC: 0x0100",
        "SP: 0xFFFE"].map fun x => .text x.toList) := by decide

/-- V62. -/
theorem test_breakpoints :
    bpAdd 0x0150#16 (bpAdd 0x0100#16 (bpAdd 0x0150#16 [])) = [0x0150#16, 0x0100#16] ∧
    bpAdd 0x0150#16 (bpRemove 0x0150#16 [0x0150#16, 0x0100#16]) = [0x0100#16, 0x0150#16] ∧
    bpRemove 0x9999#16 [0x0150#16] = [0x0150#16] := by decide

/-- V9: the sixth push evicts the oldest, `history` and the repeated line are dropped. -/
theorem test_history_eviction :
    let five : List Line := ["c1".toList, "c2".toList, "c3".toList, "c4".toList, "c5".toList]
    let six : List Line := ["c2".toList, "c3".toList, "c4".toList, "c5".toList, "c6".toList]
    histPush 5 "c6".toList five = six ∧ histPush 5 "history".toList six = six ∧ histPush 5 "c6".toList six = six ∧
    histRecall six 1 = some "c6".toList ∧ histRecall six 5 = some "c2".toList := by decide

/-- V71, V72, V73. -/
theorem test_history_corners :
    histPush 5 "a".toList ["a".toList, "b".toList] = ["a".toList, "b".toList, "a".toList] ∧
    histPush 1 "b".toList ["a".toList] = ["b".toList] ∧ histPush 1 "b".toList ["b".toList] = ["b".toList] ∧
    ([1, 2, 3].map (histRecall ["x".toList, "y".toList, "z".toList])) =
      [some "z".toList, some "y".toList, some "x".toList] := by decide

/-- What a debugger step leaves, without the history (whose capacity is open). -/
def turn (s : State) : Option (DbgState × Word × List Word × List Output × Bool) :=
  (nextOf (step s)).map fun t => (t.dbg, t.bank.pc, t.bp, t.out, t.exitRequested)

/-- V40: `continue` stops inside `LD (HL),A`, before the store. -/
theorem test_continue_stops :
    turn (session (start [(0x0100, 0x77#8)]) .runContinue [0x0101#16] []) =
    some (.idle, 0x0101#16, [0x0101#16], [], false) := by decide

/-- V46: `continue-until-not-impl` ignores breakpoints by default, and heeds them when the parameter says so. -/
theorem test_cuni_breakpoints :
    turn (session (start []) .runCuni [0x0101#16] []) = some (.runCuni, 0x0101#16, [0x0101#16], [], false) ∧
    (nextOf (cuniTurn true (session (start []) .runCuni [0x0101#16] []))).map (fun t => (t.dbg, t.bank.pc)) =
      some (.idle, 0x0101#16) := by decide

/-- V13: the undecodable byte stops `continue-until-not-impl` without a fault. -/
theorem test_cuni_stops :
    turn (session (start [(0x0100, 0xD3#8)]) .runCuni [] []) =
    some (.idle, 0x0100#16, [], [.raw 0xD3#8 0x0100#16], false) := by decide

/-- V45 and V49: a fault terminates, `exit` terminates and raises the output, a missing image does neither. -/
theorem test_ends :
    turn (session (start [(0x0100, 0xD3#8)]) .runContinue [] []) =
      some (.terminated (.fault (.invalidOpcode 0xD3#8 0x0100#16)), 0x0100#16, [],
        [.fault (.invalidOpcode 0xD3#8 0x0100#16)], false) ∧
    turn (session (start []) .idle [] ["exit".toList]) =
      some (.terminated .exitRequested, 0x0100#16, [], [], true) ∧
    turn (session State.reset .idle [] ["step".toList]) = some (.idle, 0x0100#16, [], [.noImage], false) :=
  ⟨by decide, by decide, by decide⟩

/-- R216: `exit`, a faulting `step` and a faulting `continue` push their lines (V49, V45). -/
theorem test_ends_push :
    (nextOf (step (session (start []) .idle [] ["exit".toList]))).map (fun t => t.hist) =
      some (histPush Config.historyCapacity "exit".toList []) ∧
    (nextOf (step (session (start [(0x0100, 0xD3#8)]) .idle [] ["step".toList]))).map (fun t => t.hist) =
      some (histPush Config.historyCapacity "step".toList []) ∧
    (nextOf (step (session (start [(0x0100, 0xD3#8)]) .runContinue [] []))).map (fun t => t.hist) =
      some (histPush Config.historyCapacity "continue".toList []) := ⟨rfl, rfl, rfl⟩

/-- R318: the frame loop prints the fault of V11 and terminates; it makes no call after that; a good byte goes on. -/
theorem test_frame_loop :
    nextOf (step (start [(0x0100, 0xD3#8)])) =
      some (ended (start [(0x0100, 0xD3#8)]) (.invalidOpcode 0xD3#8 0x0100#16)) ∧
    nextOf (step (ended (start []) (.unreadable 0xFEA0#16))) = some (ended (start []) (.unreadable 0xFEA0#16)) ∧
    nextOf (step (start [])) = nextOf (cycle (start [])) := by decide

/-- V48: `step` is one cycle. -/
theorem test_step_command :
    turn (session (start [(0x0100, 0xC3#8)]) .idle [] ["step".toList]) = some (.idle, 0x0101#16, [], [], false) := by
  decide

/-! ## Witnesses: for every statement with hypotheses, a state and operands that meet them, clause by clause -/

theorem witness_DecodingInvertsEncoding :
    StreamInstr.wellFormed { instr := .jp_nn, operands := [0xFF#8, 0x00#8] } = true ∧
    StreamInstr.wellFormed { instr := .ld_atHL_A, operands := [] } = true := by decide

theorem witness_EncodingInvertsDecoding :
    decodeStream [0x3E#8, 0xFF#8, 0x76#8] = .ok { instr := .ld_A_n, operands := [0xFF#8] } [0x76#8] := by decide

theorem witness_CycleCountsByTag :
    Instr.tag .nop = .NOP ∧ Instr.tag .ld_A_n = .LD_R_N .A ∧ Instr.tag .ld_A_B = .LD_R_R .A .B ∧
    Instr.tag .ld_atHL_L = .LD_HL_R .L ∧ Instr.tag .jp_nn = .JP_NN := by decide

/-- A step from a state whose F has its low bits zero and its flags set. -/
theorem witness_FlagRegisterKeepsLowBitsZero :
    let s := at' (bankAt 0x0100#16 0xC000#16) .powerOn [] []
    s.bank.f = 0xC0#8 ∧ s.bank.f &&& 0x0F#8 = 0x00#8 ∧ ∃ t, step s = .next t :=
  ⟨by decide, by decide, exists_next (by decide)⟩

theorem witness_SettingAFlagRewritesOneBit :
    (bankAt 0x0100#16 0xC000#16).f &&& 0x0F#8 = 0x00#8 ∧ 4 ≠ Flag.bit .H ∧ 6 ≠ Flag.bit .H := by decide

theorem witness_FlagsAndStackPointerNeverChange :
    (∃ t, step (start []) = .next t) ∧ ∃ t, step (session (start []) .idle [] ["step".toList]) = .next t :=
  ⟨exists_next (by decide), exists_next (by decide)⟩

/-- The gap from its first to its last address, and the addresses beside it. -/
theorem witness_OnlyTheGapIsUnreadable :
    classify 0xFEA0#16 = .GAP ∧ classify 0xFEFF#16 = .GAP ∧ classify 0xFE9F#16 ≠ .GAP ∧ classify 0xFF00#16 ≠ .GAP := by
  decide

theorem witness_WritePolicyByRegion :
    classify 0x0000#16 = .ROM0 ∧ classify 0x7FFF#16 = .ROMX ∧ classify 0xE000#16 = .ECHO ∧ classify 0xFEA0#16 = .GAP ∧
    ([0x8000#16, 0xA000#16, 0xDFFF#16, 0xFE00#16, 0xFF00#16, 0xFF80#16, 0xFFFF#16].map classify).all
      (fun r => decide (r ≠ .ROM0 ∧ r ≠ .ROMX ∧ r ≠ .ECHO ∧ r ≠ .GAP)) = true := by decide

/-- An image that ends at 0x0150: the last address inside, the first beyond; and one address of every other clause. -/
theorem witness_ReadByRegion :
    let s : State := { start [] with image := some { len := 0x0150, cells := [(0x014F, 0x06#8)] }, mem := [(0xC010, 0x5A#8)] }
    s.image = some { len := 0x0150, cells := [(0x014F, 0x06#8)] } ∧ classify 0x014F#16 = .ROM0 ∧
    okOf (memRead s 0x014F#16) = some 0x06#8 ∧ errOf (memRead s 0x0150#16) = some (.outOfBounds 0x0150#16) ∧
    okOf (memRead s 0xBFFF#16) = some 0x00#8 ∧ okOf (memRead s 0xE010#16) = some 0x5A#8 ∧
    okOf (memRead s 0xC010#16) = some 0x5A#8 ∧ okOf (memRead s 0xFFFF#16) = some 0x00#8 := by decide

/-- Stores at the last address the echo shows, at the first it does not, and in the placeholder. -/
theorem witness_StoredByteReadsBack :
    (start []).mem.wf = true ∧ classify 0xDDFF#16 = .WRAM ∧
    memWrite (start []) 0xDDFF#16 0x5A#8 = .ok ((start []).writeCell 0xDDFF 0x5A#8) ∧
    memWrite (start []) 0xDE00#16 0x5A#8 = .ok ((start []).writeCell 0xDE00 0x5A#8) ∧
    memWrite (start []) 0xA000#16 0x5A#8 = .ok (start []) :=
  ⟨by decide, by decide, eq_ok (by decide), eq_ok (by decide), eq_ok (by decide)⟩

theorem witness_StoreLeavesEveryOtherByte :
    memWrite (start []) 0xC010#16 0x5A#8 = .ok ((start []).writeCell 0xC010 0x5A#8) ∧
    storageCell 0x0100#16 = none ∧ storageCell 0xC011#16 ≠ storageCell 0xC010#16 ∧
    storageCell 0xC010#16 ≠ some 0xC00F :=
  ⟨eq_ok (by decide), by decide, by decide, by decide⟩

/-- The boundary of the count and of the image's length. -/
theorem witness_ImageReadIsBigEndian :
    let img : Image := { len := 5, cells := [(0, 0x12#8), (1, 0x34#8), (2, 0x56#8), (3, 0x78#8), (4, 0x9A#8)] }
    5 > 4 ∧ 2 + 4 > img.len ∧ 1 + 4 ≤ img.len ∧ okOf (imageRead img 1 4) = some 0x3456789A := by decide

/-- The operand read that succeeds, the one that faults, and the write cycle. -/
theorem witness_LoadImmediateByCycle :
    Instr.tag .ld_B_n = .LD_R_N .B ∧
    (let s := at' (bankAt 0xFFFF#16 0xC000#16) (inFlight .ld_B_n 1 0x00#8 0x00#8) [(0xFFFF, 0x12#8)] []
     s.is.counter = 1 ∧ memRead s s.bank.pc = .ok 0x12#8) ∧
    (let s := at' (bankAt 0xFEA0#16 0xC000#16) (inFlight .ld_B_n 1 0x00#8 0x00#8) [] []
     s.is.counter = 1 ∧ memRead s s.bank.pc = .error (.unreadable 0xFEA0#16)) ∧
    (inFlight .ld_B_n 2 0x12#8 0x00#8).counter = 2 ∧ Reg8.F ≠ OpReg.reg .B :=
  ⟨by decide, ⟨by decide, eq_ok (by decide)⟩, ⟨by decide, eq_error (by decide)⟩, by decide, by decide⟩

theorem witness_MoveCopiesTheSource :
    Instr.tag .ld_L_H = .LD_R_R .L .H ∧ Instr.tag .ld_A_A = .LD_R_R .A .A ∧
    (inFlight .ld_A_A 1 0x00#8 0x00#8).counter = 1 := by decide

/-- One address of each of the four outcomes of the store, and one byte that is not behind it. -/
theorem witness_StoreAtHLByCycle :
    let s (hl : Word) := at' (bankAt 0x0101#16 hl) (inFlight .ld_atHL_A 2 0x00#8 0x00#8) [] []
    Instr.tag .ld_atHL_A = .LD_HL_R .A ∧ (inFlight .ld_atHL_A 1 0x00#8 0x00#8).counter = 1 ∧
    (s 0xC337#16).is.counter = 2 ∧ (s 0xC337#16).bank.getPair .HL = 0xC337#16 ∧
    storageCell 0xC337#16 = some 0xC337 ∧ classify 0xC337#16 ≠ .ECHO ∧ classify 0xBFFF#16 = .EXTRAM ∧
    writePolicy (classify 0x7FFF#16) = .readOnly ∧ writePolicy (classify 0xE000#16) = .readOnly ∧
    classify 0xFEA0#16 = .GAP ∧ storageCell 0xC338#16 ≠ storageCell ((s 0xC337#16).bank.getPair .HL) ∧
    ∃ t, exec .ld_atHL_A (s 0xC337#16) = .next t :=
  ⟨by decide, by decide, by decide, by decide, by decide, by decide, by decide, by decide, by decide, by decide,
    by decide, exists_next (by decide)⟩

theorem witness_JumpByCycle :
    (let s := at' (bankAt 0x0101#16 0xC000#16) (inFlight .jp_nn 2 0x00#8 0x00#8) [] [(0x0101, 0x13#8)]
     s.is.counter = 2 ∧ memRead s s.bank.pc = .ok 0x13#8) ∧
    (let s := at' (bankAt 0xFFFF#16 0xC000#16) (inFlight .jp_nn 3 0x13#8 0x00#8) [(0xFFFF, 0x37#8)] []
     s.is.counter = 3 ∧ memRead s s.bank.pc = .ok 0x37#8) ∧
    (let s := at' (bankAt 0xFEA0#16 0xC000#16) (inFlight .jp_nn 3 0x13#8 0x00#8) [] []
     s.is.counter = 3 ∧ memRead s s.bank.pc = .error (.unreadable 0xFEA0#16)) ∧
    (inFlight .jp_nn 1 0x00#8 0x00#8).counter = 1 ∧ (inFlight .jp_nn 4 0x13#8 0x37#8).counter = 4 :=
  ⟨⟨by decide, eq_ok (by decide)⟩, ⟨by decide, eq_ok (by decide)⟩, ⟨by decide, eq_error (by decide)⟩, by decide,
    by decide⟩

theorem witness_PairsOutsideTheTableHaveNoEffect :
    (inFlight .jp_nn 0 0x00#8 0x00#8).counter = 0 ∧ Instr.cycles .jp_nn < (inFlight .jp_nn 5 0x00#8 0x00#8).counter := by
  decide

/-- A next state of a load, a move, a store and a jump. -/
theorem witness_FrameOfEveryInstruction :
    let s (i : Instr) (c : Nat) := at' (bankAt 0x0101#16 0xC000#16) (inFlight i c 0x13#8 0x37#8) [] []
    (∃ t, exec .ld_D_n (s .ld_D_n 2) = .next t) ∧ (∃ t, exec .ld_D_E (s .ld_D_E 1) = .next t) ∧
    (∃ t, exec .ld_atHL_E (s .ld_atHL_E 2) = .next t) ∧ (∃ t, exec .jp_nn (s .jp_nn 4) = .next t) ∧
    (∃ t, exec .nop (s .nop 1) = .next t) :=
  ⟨exists_next (by decide), exists_next (by decide), exists_next (by decide), exists_next (by decide),
    exists_next (by decide)⟩

/-- Each case of a call: no image, a fetch that faults, one that is unrecognized, one that is recognized, in flight. -/
theorem witness_StepRunsTheDecodedInstruction :
    ((start []).driver = .frameLoop ∧ (start []).frame = .running) ∧ State.reset.image = none ∧
    (start []).image ≠ none ∧
    (start []).is.retired = true ∧
    memRead (at' (bankAt 0xFEA0#16 0xC000#16) .powerOn [] []) 0xFEA0#16 = .error (.unreadable 0xFEA0#16) ∧
    memRead (start [(0x0100, 0xD3#8)]) 0x0100#16 = .ok 0xD3#8 ∧ decode 0xD3#8 = .unrecognized ∧
    memRead (start [(0x0100, 0x48#8)]) 0x0100#16 = .ok 0x48#8 ∧ decode 0x48#8 = .recognized .ld_C_B ∧
    (inFlight .jp_nn 3 0x13#8 0x37#8).retired = false :=
  ⟨by decide, by decide, by decide, by decide, eq_error (by decide), eq_ok (by decide), by decide, eq_ok (by decide),
    by decide, by decide⟩

theorem witness_FetchInstallsAFreshInstruction :
    (∃ t, fetch (start []) = .ok t) ∧ decode 0xC3#8 = .recognized .jp_nn ∧
    (let s := at' (bankAt 0x0101#16 0xC000#16) (inFlight .nop 1 0x00#8 0x00#8) [] []
     s.is.tag ≠ .NONE ∧ ∃ t, step s = .next t) :=
  ⟨⟨_, rfl⟩, by decide, by decide, exists_next (by decide)⟩

/-- States of the invariant whose next call raises each of the five faults (V11, V24, V25, V3a, V29, V35). -/
theorem witness_CauseOfEveryFault :
    (let s := start [(0x0100, 0xD3#8)]; s.Inv ∧ cycle s = .fault (.invalidOpcode 0xD3#8 0x0100#16)) ∧
    (let s := at' (bankAt 0xFE9F#16 0xC000#16) .powerOn [(0xFE9F, 0x3E#8)] []
     s.Inv ∧ cycle s = .fault (.unreadable 0xFEA0#16)) ∧
    (let s := at' (bankAt 0xFEA0#16 0xC000#16) (inFlight .jp_nn 2 0x12#8 0x00#8) [] []
     s.Inv ∧ cycle s = .fault (.unreadable 0xFEA0#16)) ∧
    (let s : State := { start [] with image := some { len := 0x0150, cells := [(0x014F, 0x06#8)] },
                                      bank := bankAt 0x014F#16 0xC000#16 }
     s.Inv ∧ cycle s = .fault (.outOfBounds 0x0150#16)) ∧
    (let s := at' (bankAt 0x0101#16 0x1337#16) (inFlight .ld_atHL_A 1 0x00#8 0x00#8) [] []
     s.Inv ∧ cycle s = .fault (.readOnly 0x1337#16)) ∧
    (let s := at' (bankAt 0x0101#16 0xFEFF#16) (inFlight .ld_atHL_A 1 0x00#8 0x00#8) [] []
     s.Inv ∧ cycle s = .fault (.unwritable 0xFEFF#16)) :=
  ⟨⟨inv_of rfl (by decide), eq_fault (by decide)⟩, ⟨inv_of rfl (by decide), eq_fault (by decide)⟩,
    ⟨inv_of rfl (by decide), eq_fault (by decide)⟩, ⟨inv_of rfl (by decide), eq_fault (by decide)⟩,
    ⟨inv_of rfl (by decide), eq_fault (by decide)⟩, ⟨inv_of rfl (by decide), eq_fault (by decide)⟩⟩

theorem witness_ProgramCounterChangesInThreeWays :
    (let s := start [(0x0100, 0x06#8)]; s.Inv ∧ s.is.retired = true ∧ ∃ t, cycle s = .next t) ∧
    (let s := at' (bankAt 0x0103#16 0xC000#16) (inFlight .jp_nn 3 0x13#8 0x37#8) [] []
     s.Inv ∧ s.is.retired = false ∧ ∃ t, cycle s = .next t) :=
  ⟨⟨inv_of rfl (by decide), by decide, exists_next (by decide)⟩,
    ⟨inv_of rfl (by decide), by decide, exists_next (by decide)⟩⟩

theorem witness_CycleTouchesTheEngineOnly :
    (∃ t, cycle (start []) = .next t) ∧
    (let s := at' (bankAt 0x0103#16 0xC000#16) (inFlight .jp_nn 3 0x13#8 0x37#8) [] []
     s.is.retired = false ∧ ∃ t, cycle s = .next t) :=
  ⟨exists_next (by decide), by decide, exists_next (by decide)⟩

/-- The five cases of `peek` are those of `test_peek`; here the call after each of the two that go on. -/
theorem witness_PeekPredictsTheNextCycle :
    (let s := start [(0x0100, 0x06#8)]
     peek s = .instr (inFlight .ld_B_n 0 0x00#8 0x00#8) ∧ s.is.retired = true ∧ ∃ t, cycle s = .next t) ∧
    (let s := at' (bankAt 0x0102#16 0xC000#16) (inFlight .ld_B_n 1 0x12#8 0x00#8) [] []
     peek s = .instr (inFlight .ld_B_n 1 0x12#8 0x00#8) ∧ s.is.retired = false) :=
  ⟨⟨by decide, by decide, exists_next (by decide)⟩, by decide, by decide⟩

/-- P5: the byte 0x47 is stored at 0xC000 and fetched there. -/
theorem witness_StoredByteIsFetchedAsAnOpcode :
    let s := start []
    let t := s.writeCell 0xC000 0x47#8
    let u : State := { t with bank := bankAt 0xC000#16 0xC000#16 }
    s.mem.wf = true ∧ memWrite s 0xC000#16 0x47#8 = .ok t ∧ classify 0xC000#16 ≠ .EXTRAM ∧
    decode 0x47#8 = .recognized .ld_B_A ∧ u.mem = t.mem ∧ u.image = t.image ∧ u.image ≠ none ∧
    u.is.retired = true ∧ u.bank.pc = 0xC000#16 :=
  ⟨by decide, eq_ok (by decide), by decide, by decide, by decide, by decide, by decide, by decide, by decide⟩

/-- A store whose single further call is `Done`. -/
theorem witness_InstructionRetiresAfterItsCycles :
    let s := { start [(0x0100, 0x77#8)] with bank := bankAt 0x0100#16 0xC000#16 }
    let u := at' (bankAt 0x0101#16 0xC000#16) (inFlight .ld_atHL_A 1 0x00#8 0x00#8) [] [(0x0100, 0x77#8)]
    s.is.retired = true ∧ cycle s = .next u ∧ u.is.instr = some .ld_atHL_A ∧ 1 ≤ Instr.cycles .ld_atHL_A - 1 ∧
    ∃ t, cycles 1 u = .next t :=
  ⟨by decide, eq_next (by decide), by decide, by decide, exists_next (by decide)⟩

/-- V2. -/
theorem witness_JumpRetiresInExactlyFourCycles :
    let s := start [(0x0100, 0xC3#8), (0x0101, 0x13#8), (0x0102, 0x37#8)]
    s.image ≠ none ∧ s.is.retired = true ∧ memRead s s.bank.pc = .ok 0xC3#8 ∧
    memRead s (s.bank.pc + 1#16) = .ok 0x13#8 ∧ memRead s (s.bank.pc + 2#16) = .ok 0x37#8 :=
  ⟨by decide, by decide, eq_ok (by decide), eq_ok (by decide), eq_ok (by decide)⟩

/-- V23: the opcode at 0xFFFF, the operand at 0x0000. -/
theorem witness_LoadImmediateRetiresInTwoCycles :
    let s := at' (bankAt 0xFFFF#16 0xC000#16) .powerOn [(0xFFFF, 0x3E#8)] [(0x0000, 0x77#8)]
    s.image ≠ none ∧ s.is.retired = true ∧ memRead s s.bank.pc = .ok 0x3E#8 ∧
    decode 0x3E#8 = .recognized .ld_A_n ∧ Instr.tag .ld_A_n = .LD_R_N .A ∧
    memRead s (s.bank.pc + 1#16) = .ok 0x77#8 :=
  ⟨by decide, by decide, eq_ok (by decide), by decide, by decide, eq_ok (by decide)⟩

/-- V3b and V3a: a store into working RAM, and one into ROM. -/
theorem witness_StoreRetiresInTwoCycles :
    let s (hl : Word) := at' (bankAt 0x0100#16 hl) .powerOn [] [(0x0100, 0x77#8)]
    (s 0xC337#16).image ≠ none ∧ (s 0xC337#16).is.retired = true ∧
    memRead (s 0xC337#16) (s 0xC337#16).bank.pc = .ok 0x77#8 ∧ decode 0x77#8 = .recognized .ld_atHL_A ∧
    Instr.tag .ld_atHL_A = .LD_HL_R .A ∧ storageCell ((s 0xC337#16).bank.getPair .HL) = some 0xC337 ∧
    classify ((s 0xC337#16).bank.getPair .HL) ≠ .ECHO ∧
    writePolicy (classify ((s 0x1337#16).bank.getPair .HL)) = .readOnly :=
  ⟨by decide, by decide, eq_ok (by decide), by decide, by decide, by decide, by decide, by decide⟩

theorem witness_NoIncrementIsPendingAfterAJump :
    let s := at' (bankAt 0x0103#16 0xC000#16) (inFlight .jp_nn 3 0x13#8 0x37#8) [] []
    s.image ≠ none ∧ s.is.instr = some .jp_nn ∧ s.is.counter = 3 ∧
    ∃ w, fetch (at' (bankAt 0x1337#16 0xC000#16) (inFlight .jp_nn 4 0x13#8 0x37#8) [] []) = .ok w :=
  ⟨by decide, by decide, by decide, ⟨_, rfl⟩⟩

theorem witness_FirstCallFetchesAtTheEntry :
    decode (Image.byteAt { len := 0x0101, cells := [(0x0100, 0x48#8)] } 0x0100) = .recognized .ld_C_B ∧
    0x0100 < 0x0101 := by decide

theorem witness_ResetSatisfiesTheInvariant :
    Memory.wf [(0x8000, 0x01#8), (0xFFFF, 0xFF#8)] = true ∧
    Memory.keysIn storageBacked [(0x8000, 0x01#8), (0xFFFF, 0xFF#8)] = true := by decide

/-- A store step and a debugger step from states of the invariant. -/
theorem witness_EveryStepKeepsTheInvariant :
    (let s := at' (bankAt 0x0101#16 0xC000#16) (inFlight .ld_atHL_A 1 0x00#8 0x00#8) [(0xC000, 0x12#8)] []
     s.Inv ∧ ∃ t, step s = .next t) ∧
    (let s := session (start []) .idle [0x0150#16] ["break-add 0100".toList]
     s.Inv ∧ ∃ t, step s = .next t) :=
  ⟨⟨inv_of rfl (by decide), exists_next (by decide)⟩, ⟨inv_of rfl (by decide), exists_next (by decide)⟩⟩

theorem witness_DebuggerChangesTheEngineByCycleOnly :
    (session (start []) .runContinue [] []).driver = .debugger ∧
    (∃ t, step (session (start []) .runContinue [] []) = .next t) ∧ (start []).driver = .frameLoop ∧
    ∃ t, step (start []) = .next t :=
  ⟨rfl, exists_next (by decide), rfl, exists_next (by decide)⟩

/-- The `pc` a call leaves is a breakpoint, and is not. -/
theorem witness_ContinueTestsBreakpointsAfterEveryCycle :
    ∃ t, cycle (session (start [(0x0100, 0x77#8)]) .runContinue [0x0101#16] []) = .next t ∧
      t.bank.pc ∈ [0x0101#16] ∧ t.bank.pc ∉ [0x0100#16] :=
  ⟨at' { State.reset.bank with pc := 0x0101#16 } (inFlight .ld_atHL_A 1 0x00#8 0x00#8) [] [(0x0100, 0x77#8)]
    |> fun t => session t .runContinue [0x0101#16] [], eq_next (by decide), by decide, by decide⟩

/-- Lines of every row for the idle state; a state of every row for the running ones. -/
theorem witness_DebuggerTransitionTable :
    (let s := session (start []) .idle [] ["step".toList]
     s.driver = .debugger ∧ s.dbg = .idle ∧ s.input = "step".toList :: [] ∧ parseLine "step".toList = .ok .step ∧
     ∃ t, cycle { s with input := [] } = .next t) ∧
    cycle { session (start [(0x0100, 0xD3#8)]) .idle [] ["step".toList] with input := [] } =
      .fault (.invalidOpcode 0xD3#8 0x0100#16) ∧
    (session State.reset .idle [] ["step".toList]).image = none ∧
    parseLine "foo".toList = .error .unknownCommand ∧ parseLine "break-add 1A".toList = .ok (.breakAdd 0x001A#16) ∧
    parseLine "break-remove 1A".toList = .ok (.breakRemove 0x001A#16) ∧
    parseLine "break-list".toList = .ok .breakList ∧ parseLine "next".toList = .ok .next ∧
    parseLine "registers".toList = .ok .registers ∧ parseLine "help".toList = .ok .help ∧
    parseLine "history".toList = .ok .history ∧ parseLine "continue".toList = .ok .continue_ ∧
    parseLine "continue-until-not-impl".toList = .ok .continueUntilNotImpl ∧
    parseLine "exit".toList = .ok .exit :=
  ⟨⟨rfl, rfl, rfl, eq_ok (by decide), exists_next (by decide)⟩, eq_fault (by decide), rfl, eq_error (by decide),
    eq_ok (by decide), eq_ok (by decide), eq_ok (by decide), eq_ok (by decide), eq_ok (by decide), eq_ok (by decide),
    eq_ok (by decide), eq_ok (by decide), eq_ok (by decide), eq_ok (by decide)⟩

/-- The rows of the running states: a call that goes on, a fault, a raw byte, a fault of `peek`, no image. The row of a
breakpoint under `continue` is `witness_ContinueTestsBreakpointsAfterEveryCycle`; the row of a breakpoint under
`continue-until-not-impl` is that of the parameter's other value, and has no state under the default. -/
theorem witness_DebuggerTransitionTable_running :
    (∃ t, cycle (session (start []) .runContinue [0x0100#16] []) = .next t ∧ t.bank.pc ∉ [0x0100#16]) ∧
    cycle (session (start [(0x0100, 0xD3#8)]) .runContinue [] []) = .fault (.invalidOpcode 0xD3#8 0x0100#16) ∧
    (let s := session (start []) .runCuni [] []
     peek s = .instr (inFlight .nop 0 0x00#8 0x00#8) ∧ (∃ t, cycle s = .next t) ∧
       Params.cuniHonoursBreakpoints = false) ∧
    peek (session (start [(0x0100, 0xD3#8)]) .runCuni [] []) = .raw 0xD3#8 0x0100#16 ∧
    peek (session State.reset .runCuni [] []) = .noImage ∧
    peek (session (at' (bankAt 0xFEA0#16 0xC000#16) .powerOn [] []) .runCuni [] []) =
      .fault (.unreadable 0xFEA0#16) ∧
    (session (start []) (.terminated .exitRequested) [] []).dbg = .terminated .exitRequested :=
  ⟨⟨session (at' { State.reset.bank with pc := 0x0101#16 } (inFlight .nop 1 0x00#8 0x00#8) [] []) .runContinue
      [0x0100#16] [], eq_next (by decide), by decide⟩, eq_fault (by decide),
    ⟨by decide, exists_next (by decide), rfl⟩, by decide, by decide, by decide, rfl⟩

theorem witness_NoOtherWayOutOfARunningState :
    (let s := session (start [(0x0100, 0xD3#8)]) .runContinue [] ["step".toList]
     s.driver = .debugger ∧ s.dbg = .runContinue ∧ ∃ t, step s = .next t) ∧
    (let s := session (start [(0x0100, 0xD3#8)]) .runCuni [] ["step".toList]
     s.driver = .debugger ∧ s.dbg = .runCuni ∧ ∃ t, step s = .next t) :=
  ⟨⟨rfl, rfl, exists_next (by decide)⟩, ⟨rfl, rfl, exists_next (by decide)⟩⟩

theorem witness_CuniStopsBeforeTheUndecodableByte :
    let s := session (start [(0x0100, 0xD3#8)]) .runCuni [] []
    s.driver = .debugger ∧ s.dbg = .runCuni ∧ s.image ≠ none ∧ s.is.retired = true ∧
    memRead s s.bank.pc = .ok 0xD3#8 ∧ decode 0xD3#8 = .unrecognized :=
  ⟨rfl, rfl, by decide, by decide, eq_ok (by decide), by decide⟩

/-- A fault in each of the three commands: V45, V47 and V13's last line. -/
theorem witness_FaultTerminatesTheDebugger :
    (let s := session (start [(0x0100, 0xD3#8)]) .runContinue [] []
     s.driver = .debugger ∧ s.dbg = .runContinue ∧ cycle s = .fault (.invalidOpcode 0xD3#8 0x0100#16)) ∧
    (let s := session (at' (bankAt 0x0101#16 0x0000#16) (inFlight .ld_atHL_A 1 0x00#8 0x00#8) [] []) .runCuni [] []
     s.dbg = .runCuni ∧ peek s = .instr (inFlight .ld_atHL_A 1 0x00#8 0x00#8) ∧
       cycle s = .fault (.readOnly 0x0000#16)) ∧
    (let s := session (start [(0x0100, 0xD3#8)]) .idle [] ["step".toList]
     s.dbg = .idle ∧ s.input = "step".toList :: [] ∧ parseLine "step".toList = .ok .step ∧
       cycle s = .fault (.invalidOpcode 0xD3#8 0x0100#16)) ∧
    (let s := session (start []) .idle [] ["step now".toList]
     s.driver = .debugger ∧ s.dbg = .idle ∧ s.input = "step now".toList :: [] ∧
       parseLine "step now".toList = .error .wrongArity) :=
  ⟨⟨rfl, rfl, eq_fault (by decide)⟩, ⟨rfl, by decide, eq_fault (by decide)⟩,
    ⟨rfl, rfl, eq_ok (by decide), eq_fault (by decide)⟩, rfl, rfl, rfl, eq_error (by decide)⟩

theorem witness_ParseErrorChangesNothing :
    let s := session (start []) .idle [0x0100#16] ["break-add 0xZZ".toList]
    s.driver = .debugger ∧ s.dbg = .idle ∧ s.input = "break-add 0xZZ".toList :: [] ∧
    parseLine "break-add 0xZZ".toList = .error .badAddress :=
  ⟨rfl, rfl, rfl, eq_error (by decide)⟩

theorem witness_BreakpointSetOperations :
    ([0x0150#16, 0x0100#16] : List Word).Nodup ∧ 0x0100#16 ∈ ([0x0150#16, 0x0100#16] : List Word) ∧
    0x9999#16 ∉ ([0x0150#16, 0x0100#16] : List Word) ∧ (0x0150#16 : Word) ≠ 0x0100#16 := by decide

/-- A token that does not begin with `0x`: the empty one, and one of a digit. -/
theorem witness_HexPrefixIsOptional :
    (∀ rest : Line, ([] : Line) ≠ '0' :: 'x' :: rest) ∧ ∀ rest : Line, "1A".toList ≠ '0' :: 'x' :: rest := by
  constructor
  · intro rest h; cases h
  · intro rest h
    have : '1' = '0' := (List.cons.inj h).1
    exact absurd this (by decide)

theorem witness_ParseErrorsInOrder :
    Keyword.ofToken "foo".toList = none ∧ ([] : List Line).length + 1 ≠ Keyword.arity .breakAdd ∧
    (["now".toList] : List Line).length + 1 ≠ Keyword.arity .step ∧ parseHex "xyz".toList = none ∧
    parseHex "ffff".toList = some 0xFFFF#16 := by decide

theorem witness_EverySpaceSplitsTheLine :
    ' ' ∉ "break-add".toList ∧ ' ' ∉ ([] : Line) ∧ splitSpaces " step".toList = [[], "step".toList] := by decide

theorem witness_HistoryPushContract :
    (["a".toList] : List Line).getLast? = some "a".toList ∧ "b".toList ≠ "history".toList ∧
    (["a".toList] : List Line).getLast? ≠ some "b".toList ∧ (["a".toList] : List Line).length + 1 ≤ 2 ∧
    1 < (["a".toList] : List Line).length + 1 := by decide

theorem witness_HistoryKeepsItsBounds : 1 ≤ 1 ∧ histWf 1 ["a".toList] = true := by decide

theorem witness_RecallCountsFromTheMostRecent :
    let hist : List Line := ["x".toList, "y".toList, "z".toList]
    (1 ≤ 1 ∧ 1 ≤ hist.length) ∧ (1 ≤ 3 ∧ 3 ≤ hist.length) ∧ hist ≠ [] ∧ hist.length < 4 := by decide

theorem witness_DisplaysAreIdempotent :
    let s := session (start []) .idle [0x0150#16] ["registers".toList, "registers".toList]
    s.driver = .debugger ∧ s.dbg = .idle ∧ s.input = "registers".toList :: "registers".toList :: [] ∧
    parseLine "registers".toList = .ok .registers ∧ parseLine "break-list".toList = .ok .breakList ∧
    parseLine "next".toList = .ok .next ∧ parseLine "help".toList = .ok .help ∧
    parseLine "history".toList = .ok .history :=
  ⟨rfl, rfl, rfl, eq_ok (by decide), eq_ok (by decide), eq_ok (by decide), eq_ok (by decide), eq_ok (by decide)⟩

/-- Each kind of line, an end of each running state that faults, and one that goes on. -/
theorem witness_EveryCommandLineIsPushed :
    (let s := session (start [(0x0100, 0xD3#8)]) .idle [] ["step".toList]
     s.driver = .debugger ∧ s.dbg = .idle ∧ s.input = "step".toList :: [] ∧ okOf (parseLine "step".toList) = some .step ∧
       ∃ t, step s = .next t) ∧
    parseLine "history".toList = .ok .history ∧ parseLine "continue".toList = .ok .continue_ ∧
    parseLine "continue-until-not-impl".toList = .ok .continueUntilNotImpl ∧
    (∃ t, step (session (start [(0x0100, 0xD3#8)]) .runContinue [] []) = .next t) ∧
    (∃ t, step (session (start []) .runContinue [] []) = .next t) ∧
    (∃ t, step (session (start [(0x0100, 0xD3#8)]) .runCuni [] []) = .next t) ∧
    ∃ t, step (session (start []) .runCuni [] []) = .next t :=
  ⟨⟨rfl, rfl, rfl, by decide, exists_next (by decide)⟩, eq_ok (by decide), eq_ok (by decide), eq_ok (by decide),
    exists_next (by decide), exists_next (by decide), exists_next (by decide), exists_next (by decide)⟩

theorem witness_FrameLoopPrintsAFaultAndTerminates :
    (let s := start [(0x0100, 0xD3#8)]
     s.driver = .frameLoop ∧ s.frame = .running ∧ cycle s = .fault (.invalidOpcode 0xD3#8 0x0100#16)) ∧
    (State.reset.driver = .frameLoop ∧ State.reset.frame = .running ∧ State.reset.image = none) ∧
    (let s := ended (start []) (.unreadable 0xFEA0#16)
     s.driver = .frameLoop ∧ s.frame = .terminated (.unreadable 0xFEA0#16)) ∧ ∃ t, step (start []) = .next t :=
  ⟨⟨rfl, rfl, eq_fault (by decide)⟩, ⟨rfl, rfl, rfl⟩, ⟨rfl, rfl⟩, exists_next (by decide)⟩

end Sys2Proof.Tests
end

section
/-! PROOF. What a step keeps of the state (10_state.md), in layers: what one dispatch, one call of `cycle()` and one step
leave as they were; the invariant under a call and under the debugger's transitions; how `pc` moves. -/

namespace Sys2Proof.Machine

/-! ## What one dispatch leaves as it was -/

theorem SameOutside.refl (s : State) : SameOutside s s := by constructor <;> rfl

theorem SameOutside.trans {s t u : State} (h : SameOutside s t) (k : SameOutside t u) : SameOutside s u :=
  ⟨k.image.trans h.image, k.driver.trans h.driver, k.frame.trans h.frame, k.dbg.trans h.dbg, k.bp.trans h.bp,
    k.hist.trans h.hist, k.exitRequested.trans h.exitRequested, k.input.trans h.input, k.out.trans h.out⟩

theorem SameEngine.refl (s : State) : SameEngine s s := ⟨rfl, rfl, rfl, rfl⟩

/-- What every dispatch entry of rule R147 leaves: everything outside the engine, F and SP, and, of the InstructionState,
the instruction and its counter. -/
structure DispatchFrame (s t : State) : Prop where
  outside : SameOutside s t
  f : t.bank.f = s.bank.f
  sp : t.bank.sp = s.bank.sp
  instr : t.is.instr = s.is.instr
  counter : t.is.counter = s.is.counter

namespace DispatchFrame

theorem refl (s : State) : DispatchFrame s s := ⟨.refl s, rfl, rfl, rfl, rfl⟩

theorem trans {s t u : State} (h : DispatchFrame s t) (k : DispatchFrame t u) : DispatchFrame s u :=
  ⟨h.outside.trans k.outside, k.f.trans h.f, k.sp.trans h.sp, k.instr.trans h.instr, k.counter.trans h.counter⟩

theorem setPc (s : State) (w : Word) : DispatchFrame s (s.setPc w) := ⟨by constructor <;> rfl, rfl, rfl, rfl, rfl⟩

theorem setReg (s : State) (r : OpReg) (v : Byte) : DispatchFrame s (s.setReg r.reg v) :=
  ⟨by constructor <;> rfl, by simp, by simp, rfl, rfl⟩

theorem setOp1 (s : State) (v : Byte) : DispatchFrame s (s.setOp1 v) := ⟨by constructor <;> rfl, rfl, rfl, rfl, rfl⟩

theorem setOp2 (s : State) (v : Byte) : DispatchFrame s (s.setOp2 v) := ⟨by constructor <;> rfl, rfl, rfl, rfl, rfl⟩

theorem writeCell (s : State) (k : Nat) (v : Byte) : DispatchFrame s (s.writeCell k v) :=
  ⟨by constructor <;> rfl, rfl, rfl, rfl, rfl⟩

end DispatchFrame

theorem exec_frame {i : Instr} {s t : State} (h : exec i s = .next t) : DispatchFrame s t := by
  cases exec_next h with
  | nothing ht => subst ht; exact .refl _
  | loadRead _ _ _ v _ ht => subst ht; exact (DispatchFrame.setPc s _).trans (.setOp1 _ v)
  | loadWrite dst _ _ ht => subst ht; exact .setReg s dst _
  | move dst _ _ _ ht => subst ht; exact .setReg s dst _
  | store _ _ _ ht =>
    obtain ⟨_, rfl⟩ | ⟨_, rfl⟩ := memWrite_ok ht
    · exact .writeCell s _ _
    · exact .refl _
  | jumpRead1 _ _ v _ ht => subst ht; exact (DispatchFrame.setPc s _).trans (.setOp1 _ v)
  | jumpRead2 _ _ v _ ht => subst ht; exact (DispatchFrame.setPc s _).trans (.setOp2 _ v)
  | jumpCommit _ _ ht => subst ht; exact .setPc s _

/-- A dispatch starts from the incremented counter (rule R146); the sentinel's changes nothing more. -/
theorem runCycle_frame {s t : State} (h : runCycle s = .next t) : DispatchFrame s.tick t := by
  cases hi : s.is.instr with
  | none => rw [runCycle_none hi] at h; cases h; exact .refl _
  | some i => rw [runCycle_some hi] at h; exact exec_frame h

/-- A dispatch leaves memory, or writes one cell of a storage-backed address. -/
theorem runCycle_mem {s t : State} (h : runCycle s = .next t) :
    t.mem = s.mem ∨ ∃ a v, backing (classify a) = .storage ∧ t.mem = s.mem.write a.toNat v := by
  cases hi : s.is.instr with
  | none => rw [runCycle_none hi] at h; cases h; exact .inl rfl
  | some i => rw [runCycle_some hi] at h; exact exec_mem (s := s.tick) h

/-! ## What one call of `cycle()` leaves as it was -/

/-- What a `Done` call leaves: everything outside the engine (rule R210), F and SP (rules R25, R31). -/
structure CallFrame (s t : State) : Prop where
  outside : SameOutside s t
  f : t.bank.f = s.bank.f
  sp : t.bank.sp = s.bank.sp

theorem CycleStart.frame {s u : State} (h : CycleStart s u) : CallFrame s u := by
  cases h with
  | fetched _ _ i => exact ⟨by constructor <;> rfl, rfl, rfl⟩
  | inFlight _ => exact ⟨.refl s, rfl, rfl⟩

theorem CycleStart.mem {s u : State} (h : CycleStart s u) : u.mem = s.mem := by cases h <;> rfl

theorem SameOutside.tick (s : State) : SameOutside s s.tick := by constructor <;> rfl

theorem cycle_frame {s t : State} (h : cycle s = .next t) : CallFrame s t := by
  obtain ⟨-, u, hu, hrun⟩ := cycle_next h
  have hd := runCycle_frame hrun
  exact ⟨hu.frame.outside.trans ((SameOutside.tick u).trans hd.outside), hd.f.trans hu.frame.f,
    hd.sp.trans hu.frame.sp⟩

/-- A call leaves memory, or writes one cell of a storage-backed address (rules R65, R74). -/
theorem cycle_mem {s t : State} (h : cycle s = .next t) :
    t.mem = s.mem ∨ ∃ a v, backing (classify a) = .storage ∧ t.mem = s.mem.write a.toNat v := by
  obtain ⟨-, u, hu, hrun⟩ := cycle_next h
  rw [← hu.mem]
  exact runCycle_mem hrun

/-- A call whose engine has left the sentinel does not bring it back: a fetch installs an instruction, and a dispatch
keeps the one in flight. -/
theorem cycle_instr_ne_none {s t : State} (hs : s.is.instr ≠ none) (h : cycle s = .next t) : t.is.instr ≠ none := by
  obtain ⟨-, u, hu, hrun⟩ := cycle_next h
  rw [(runCycle_frame hrun).instr]
  cases hu with
  | fetched _ _ i => exact Option.some_ne_none i
  | inFlight _ => exact hs

/-! ## What one step does to the engine -/

/-- Under either driver a step leaves the engine as it was, or is one `Done` call on the same engine (rule R210). -/
theorem step_engine {s t : State} (h : step s = .next t) :
    SameEngine s t ∨ ∃ u v, SameEngine s u ∧ cycle u = .next v ∧ SameEngine v t := by
  cases hd : s.driver with
  | frameLoop =>
    rw [step_frameLoop hd] at h
    obtain ⟨_, _, rfl⟩ | ⟨_, hc⟩ | ⟨f, _, _, rfl⟩ := frameTurn_next h
    · exact .inl (.refl _)
    · exact .inr ⟨s, t, .refl s, hc, .refl t⟩
    · exact .inl ⟨rfl, rfl, rfl, rfl⟩
  | debugger =>
    rw [step_debugger hd] at h
    cases debuggerTurn_next h with
    | still hbank his hmem himage => exact .inl ⟨hbank, his, hmem, himage⟩
    | ran u v hu hc hbank his hmem himage =>
      have hsu : SameEngine s u := by
        obtain rfl | rfl := hu
        · exact .refl _
        · exact ⟨rfl, rfl, rfl, rfl⟩
      exact .inr ⟨u, v, hsu, hc, hbank, his, hmem, himage⟩

theorem step_f_sp {s t : State} (h : step s = .next t) : t.bank.f = s.bank.f ∧ t.bank.sp = s.bank.sp := by
  obtain he | ⟨u, v, hu, hc, hv⟩ := step_engine h
  · rw [he.bank]; exact ⟨rfl, rfl⟩
  · rw [hv.bank, ← hu.bank]; exact ⟨(cycle_frame hc).f, (cycle_frame hc).sp⟩

theorem step_instr_ne_none {s t : State} (hs : s.is.instr ≠ none) (h : step s = .next t) : t.is.instr ≠ none := by
  obtain he | ⟨u, v, hu, hc, hv⟩ := step_engine h
  · rwa [he.is]
  · rw [hv.is]; exact cycle_instr_ne_none (by rwa [hu.is]) hc

/-! ## The InstructionState (rules R34 to R37) -/

theorem InstructionState.tag_of_some {x : InstructionState} {i : Instr} (h : x.instr = some i) : x.tag = i.tag := by
  simp [InstructionState.tag, h]

/-- Only the sentinel has the tag `NONE` (rules R33, R127). -/
theorem InstructionState.tag_ne_NONE_iff (x : InstructionState) : x.tag ≠ .NONE ↔ x.instr ≠ none := by
  cases h : x.instr with
  | none => simp [InstructionState.tag, h]
  | some i => simpa [InstructionState.tag_of_some h] using tag_ne_NONE i

theorem InstructionState.cycles_congr {x y : InstructionState} (h : x.instr = y.instr) : x.cycles = y.cycles := by
  simp only [InstructionState.cycles, InstructionState.tag, h]

theorem InstructionState.counter_ne_cycles {x : InstructionState} (h : x.retired = false) : x.counter ≠ x.cycles := by
  simpa [InstructionState.retired] using h

/-- Where a dispatch starts, a cycle of the instruction is left: a fetched one has run none of its at least one, and one
in flight is not retired. -/
theorem CycleStart.counter_lt {s u : State} (h : CycleStart s u) (hle : s.is.counter ≤ s.is.cycles) :
    u.is.counter < u.is.cycles := by
  cases h with
  | fetched _ _ i => exact one_le_cycles i
  | inFlight hr => exact Nat.lt_of_le_of_ne hle (InstructionState.counter_ne_cycles hr)

/-! ## The invariant under a call -/

theorem storageBacked_of_storage {a : Word} (h : backing (classify a) = .storage) : storageBacked a.toNat = true := by
  simp [storageBacked, a.isLt, h]

theorem cycle_keeps_inv {s t : State} (h : s.Inv) (hc : cycle s = .next t) : t.Inv := by
  obtain ⟨-, u, hu, hrun⟩ := cycle_next hc
  have hd := runCycle_frame hrun
  have hout := (cycle_frame hc).outside
  have hcounter : t.is.counter = u.is.counter + 1 := hd.counter
  have hmem : t.mem.wf = true ∧ t.mem.keysIn storageBacked = true := by
    obtain hm | ⟨a, v, ha, hm⟩ := cycle_mem hc
    · rw [hm]; exact ⟨h.memWf, h.memBacked⟩
    · rw [hm]; exact ⟨Memory.wf_write h.memWf _ _, Memory.keysIn_write h.memBacked (storageBacked_of_storage ha) v⟩
  exact {
    flagsLow := by rw [(cycle_frame hc).f]; exact h.flagsLow
    memWf := hmem.1
    memBacked := hmem.2
    counterLe := by
      have hlt := hu.counter_lt h.counterLe
      have hcycles : t.is.cycles = u.is.cycles := InstructionState.cycles_congr hd.instr
      omega
    counterPos := fun _ => by omega
    bpNodup := by rw [hout.bp]; exact h.bpNodup
    histOk := by rw [hout.hist]; exact h.histOk
    exitMatches := by rw [hout.exitRequested, hout.dbg]; exact h.exitMatches }

/-! ## The history keeps its bounds (rule R246) -/

theorem histWf_iff {cap : Nat} {hist : List Line} :
    histWf cap hist = true ↔ hist.length ≤ cap ∧ historyWord ∉ hist ∧ noAdjacentRepeat hist = true := by
  simp [histWf, and_assoc]

/-- Evicting the oldest of at most one entry too many restores the bound. -/
theorem histWf_evictOldest {cap : Nat} {hist : List Line} (hlen : hist.length ≤ cap + 1) (hw : historyWord ∉ hist)
    (hr : noAdjacentRepeat hist = true) : histWf cap (evictOldest cap hist) = true := by
  unfold evictOldest
  split
  · refine histWf_iff.mpr ⟨?_, fun hm => hw (List.mem_of_mem_drop hm), noAdjacentRepeat_drop hr⟩
    rw [List.length_drop]
    omega
  · exact histWf_iff.mpr ⟨by omega, hw, hr⟩

theorem histWf_histPush {cap : Nat} {hist : List Line} (h : histWf cap hist = true) (line : Line) :
    histWf cap (histPush cap line hist) = true := by
  by_cases h1 : line = historyWord
  · rwa [h1, histPush_history]
  by_cases h2 : hist.getLast? = some line
  · rwa [histPush_last h2]
  obtain ⟨hlen, hw, hr⟩ := histWf_iff.mp h
  rw [histPush_append h1 h2]
  exact histWf_evictOldest (by simpa using hlen) (by simp [hw, Ne.symm h1]) (noAdjacentRepeat_append hr h2)

/-! ## The invariant under the debugger's transitions (rule R240) -/

theorem State.Inv.pushHist {s : State} (h : s.Inv) (line : Line) : (s.pushHist line).Inv :=
  h.setHist (histWf_histPush h.histOk line)

theorem State.Inv.finish {s : State} (h : s.Inv) (he : s.exitRequested = false) (line : Line) : (s.finish line).Inv :=
  (h.setDbg .idle he (by simp)).pushHist line

theorem State.Inv.finishNoImage {s : State} (h : s.Inv) (he : s.exitRequested = false) (line : Line) :
    (s.finishNoImage line).Inv := (h.print _).finish he line

theorem State.Inv.terminateOn_pushed {s : State} (h : s.Inv) (he : s.exitRequested = false) (f : Fault) (line : Line) :
    (s.terminateOn f line).Inv := h.terminateOn he f (histWf_histPush h.histOk line)

/-- A command that ends after a `Done` call leaves the invariant. -/
theorem cycle_finish_inv {s v : State} (h : s.Inv) (he : s.exitRequested = false) (hc : cycle s = .next v)
    (line : Line) : (v.finish line).Inv :=
  (cycle_keeps_inv h hc).finish ((cycle_frame hc).outside.exitRequested.trans he) line

theorem commandStep_keeps_inv {line : Line} {s t : State} (h : s.Inv) (he : s.exitRequested = false)
    (hc : commandStep line s = .next t) : t.Inv := by
  obtain ⟨v, hv, rfl⟩ | ⟨f, _, rfl⟩ | ⟨_, rfl⟩ := commandStep_next hc
  · exact cycle_finish_inv h he hv line
  · exact h.terminateOn_pushed he f line
  · exact h.finishNoImage he line

theorem runCommand_keeps_inv {c : Command} {line : Line} {s t : State} (h : s.Inv) (he : s.exitRequested = false)
    (hc : runCommand c line s = .next t) : t.Inv := by
  cases c with
  | breakAdd a => cases hc; exact (h.setBp (bpAdd_nodup h.bpNodup a)).pushHist line
  | breakRemove a => cases hc; exact (h.setBp (bpRemove_nodup h.bpNodup a)).pushHist line
  | continue_ => cases hc; exact h.setDbg .runContinue he (by simp)
  | continueUntilNotImpl => cases hc; exact h.setDbg .runCuni he (by simp)
  | step => exact commandStep_keeps_inv h he hc
  | breakList => cases hc; exact (h.print _).pushHist line
  | next => cases hc; exact (h.print _).pushHist line
  | registers => cases hc; exact (h.print _).pushHist line
  | history => cases hc; exact (h.print _).pushHist line
  | help => cases hc; exact (h.print _).pushHist line
  | exit => cases hc; exact h.exitOn (histWf_histPush h.histOk line)

theorem runLine_keeps_inv {line : Line} {s t : State} (h : s.Inv) (he : s.exitRequested = false)
    (hc : runLine line s = .next t) : t.Inv := by
  unfold runLine at hc
  split at hc
  · cases hc; exact (h.print _).pushHist line
  · exact runCommand_keeps_inv h he hc

theorem continueTurn_keeps_inv {s t : State} (h : s.Inv) (he : s.exitRequested = false)
    (hc : continueTurn s = .next t) : t.Inv := by
  obtain ⟨v, hv, ⟨_, rfl⟩ | ⟨_, rfl⟩⟩ | ⟨f, _, rfl⟩ | ⟨_, rfl⟩ := continueTurn_next hc
  · exact cycle_finish_inv h he hv _
  · exact cycle_keeps_inv h hv
  · exact h.terminateOn_pushed he f _
  · exact h.finishNoImage he _

theorem cuniTurn_keeps_inv {honours : Bool} {s t : State} (h : s.Inv) (he : s.exitRequested = false)
    (hc : cuniTurn honours s = .next t) : t.Inv := by
  obtain ⟨_, _, v, hv, ⟨_, rfl⟩ | ⟨_, rfl⟩⟩ | ⟨_, f, _, _, rfl⟩ | ⟨b, a, _, rfl⟩ | ⟨f, _, rfl⟩ | ⟨_, rfl⟩ :=
    cuniTurn_next hc
  · exact cycle_finish_inv h he hv _
  · exact cycle_keeps_inv h hv
  · exact h.terminateOn_pushed he f _
  · exact (h.print _).finish he _
  · exact h.terminateOn_pushed he f _
  · exact h.finishNoImage he _

theorem debuggerTurn_keeps_inv {s t : State} (h : s.Inv) (hc : debuggerTurn s = .next t) : t.Inv := by
  unfold debuggerTurn at hc
  split at hc
  · next hd =>
    have he := h.not_exit (by simp [hd])
    split at hc
    · cases hc; exact h
    · exact runLine_keeps_inv h.dropInput he hc
  · next hd => exact continueTurn_keeps_inv h (h.not_exit (by simp [hd])) hc
  · next hd => exact cuniTurn_keeps_inv h (h.not_exit (by simp [hd])) hc
  · cases hc; exact h

theorem frameTurn_keeps_inv {s t : State} (h : s.Inv) (hc : frameTurn s = .next t) : t.Inv := by
  obtain ⟨_, _, rfl⟩ | ⟨_, hv⟩ | ⟨f, _, _, rfl⟩ := frameTurn_next hc
  · exact h
  · exact cycle_keeps_inv h hv
  · exact h.stopFrame f

theorem resetWith_inv (r : Reg8 → Byte) {m : Memory} (img : Option Image) (d : Driver) (hm : m.wf = true)
    (hb : m.keysIn storageBacked = true) : (State.resetWith r m img d).Inv where
  flagsLow := maskF_low (r .F)
  memWf := hm
  memBacked := hb
  counterLe := Nat.zero_le _
  counterPos := fun h => absurd rfl h
  bpNodup := List.nodup_nil
  histOk := histWf_iff.mpr ⟨Nat.zero_le _, List.not_mem_nil, rfl⟩
  exitMatches := by simp [State.resetWith]

/-! ## How `pc` moves (rules R29, R158, R201) -/

/-- In its first cycle LD r,n reads its operand, and no other instruction moves `pc`. -/
theorem exec_cycle1_pc {i : Instr} {s t : State} (hc : s.is.counter = 1) (h : exec i s = .next t) :
    (∃ d, i.tag = .LD_R_N d ∧ t.bank.pc = s.bank.pc + 1#16) ∨
      ((∀ d, i.tag ≠ .LD_R_N d) ∧ t.bank.pc = s.bank.pc) := by
  by_cases hload : ∃ d, i.tag = .LD_R_N d
  · obtain ⟨d, hd⟩ := hload
    rw [exec_load_cycle1 hd hc] at h
    obtain ⟨v, -, rfl⟩ := latchOp1_next h
    exact .inl ⟨d, hd, rfl⟩
  · refine .inr ⟨fun d hd => hload ⟨d, hd⟩, ?_⟩
    cases exec_next h with
    | nothing ht => rw [ht]
    | move _ _ _ _ ht => rw [ht]; simp
    | loadRead d hd => exact absurd ⟨d, hd⟩ hload
    | loadWrite d hd => exact absurd ⟨d, hd⟩ hload
    | store _ _ hc' => omega
    | jumpRead1 _ hc' => omega
    | jumpRead2 _ hc' => omega
    | jumpCommit _ hc' => omega

/-- After its first cycle no instruction but JP nn moves `pc`. -/
theorem exec_later_pc {i : Instr} {s t : State} (hc : s.is.counter ≠ 1) (hi : i ≠ .jp_nn) (h : exec i s = .next t) :
    t.bank.pc = s.bank.pc := by
  cases exec_next h with
  | nothing ht => rw [ht]
  | loadWrite _ _ _ ht => rw [ht]; simp
  | store _ _ _ ht => obtain ⟨_, rfl⟩ | ⟨_, rfl⟩ := memWrite_ok ht <;> rfl
  | loadRead _ _ hc' => exact absurd hc' hc
  | move _ _ _ hc' => exact absurd hc' hc
  | jumpRead1 hj => exact absurd hj hi
  | jumpRead2 hj => exact absurd hj hi
  | jumpCommit hj => exact absurd hj hi

/-- Cycles 2 and 3 of JP nn read an operand each. -/
theorem exec_jp_read_pc {s t : State} (hc : s.is.counter = 2 ∨ s.is.counter = 3) (h : exec .jp_nn s = .next t) :
    t.bank.pc = s.bank.pc + 1#16 := by
  obtain hc | hc := hc
  · rw [exec_jp_cycle2 hc] at h
    obtain ⟨v, -, rfl⟩ := latchOp1_next h
    rfl
  · rw [exec_jp_cycle3 hc] at h
    obtain ⟨v, -, rfl⟩ := latchOp2_next h
    rfl

theorem exec_jp_commit_pc {s t : State} (hc : s.is.counter = 4) (h : exec .jp_nn s = .next t) :
    t.bank.pc = joinBytes s.is.op1 s.is.op2 := by
  rw [exec_jp_cycle4 hc] at h
  cases h
  rfl

/-- The dispatch after a fetch leaves `pc` past the opcode byte, and past the operand of LD r,n. -/
theorem runCycle_fetched_pc {s t : State} {i : Instr} (h : runCycle (s.advancePc.install i) = .next t) :
    (∃ d, i.tag = .LD_R_N d ∧ t.bank.pc = s.bank.pc + 2#16) ∨
      ((∀ d, i.tag ≠ .LD_R_N d) ∧ t.bank.pc = s.bank.pc + 1#16) := by
  obtain ⟨d, hd, hpc⟩ | ⟨hd, hpc⟩ := exec_cycle1_pc (s := (s.advancePc.install i).tick) rfl h
  · exact .inl ⟨d, hd, hpc.trans (BitVec.add_assoc _ _ _)⟩
  · exact .inr ⟨hd, hpc⟩

/-- The dispatch of an instruction in flight, at least one of whose cycles has run, moves `pc` for JP nn only. -/
theorem runCycle_inFlight_pc {s t : State} {i : Instr} (hi : s.is.instr = some i) (hpos : 1 ≤ s.is.counter)
    (hlt : s.is.counter < i.cycles) (h : runCycle s = .next t) :
    (i.tag ≠ .JP_NN ∧ t.bank.pc = s.bank.pc) ∨
      (i.tag = .JP_NN ∧ (s.is.counter = 1 ∨ s.is.counter = 2) ∧ t.bank.pc = s.bank.pc + 1#16) ∨
      (i.tag = .JP_NN ∧ s.is.counter = 3 ∧ t.bank.pc = joinBytes s.is.op1 s.is.op2) := by
  rw [runCycle_some hi] at h
  have htick : s.tick.is.counter = s.is.counter + 1 := rfl
  by_cases hj : i = .jp_nn
  · subst hj
    have hlt4 : s.is.counter < 4 := hlt
    by_cases h3 : s.is.counter = 3
    · exact .inr (.inr ⟨rfl, h3, exec_jp_commit_pc (s := s.tick) (by omega) h⟩)
    · exact .inr (.inl ⟨rfl, by omega, exec_jp_read_pc (s := s.tick) (by omega) h⟩)
  · exact .inl ⟨fun ht => hj (eq_jp_of_tag ht), exec_later_pc (s := s.tick) (by omega) hj h⟩

/-! ## The stored form of F (rules R24, R25) -/

/-- A byte whose low four bits are zero is stored in F as it is. -/
theorem maskF_of_low {v : Byte} (h : v &&& 0x0F#8 = 0x00#8) : maskF v = v :=
  calc maskF v = (v &&& 0xF0#8) ||| (v &&& 0x0F#8) := by rw [h, BitVec.or_zero]; rfl
    _ = v &&& (0xF0#8 ||| 0x0F#8) := BitVec.and_or_distrib_left.symm
    _ = v := BitVec.and_allOnes

theorem Flag.mask_low (g : Flag) : g.mask &&& 0x0F#8 = 0x00#8 := by cases g <;> decide

/-- A flag's mask is the one bit the flag stands at. -/
theorem Flag.mask_getLsbD (g : Flag) (n : Nat) : g.mask.getLsbD n = decide (n = g.bit) := by
  have hbit : g.bit < 8 := by cases g <;> decide
  simp only [Flag.mask, BitVec.getLsbD_shiftLeft, BitVec.getLsbD_one]
  rw [Bool.eq_iff_iff]
  simp only [Bool.and_eq_true, Bool.not_eq_true', decide_eq_true_eq, decide_eq_false_iff_not]
  omega

/-- Where F's low bits are zero the mask of rule R24 takes nothing off a flag write. -/
theorem RegBank.setFlag_f {b : RegBank} (h : b.f &&& 0x0F#8 = 0x00#8) (g : Flag) (v : Bool) :
    (b.setFlag g v).f = if v then b.f ||| g.mask else b.f &&& ~~~ g.mask := by
  refine maskF_of_low ?_
  cases v with
  | true => simp [BitVec.and_or_distrib_right, h, g.mask_low]
  | false =>
    calc b.f &&& ~~~ g.mask &&& 0x0F#8 = b.f &&& 0x0F#8 &&& ~~~ g.mask := by ac_rfl
      _ = 0x00#8 := by rw [h, BitVec.zero_and]

/-- Bit by bit: the flag's own bit becomes the value, every other bit of F stays. -/
theorem RegBank.setFlag_getLsbD {b : RegBank} (h : b.f &&& 0x0F#8 = 0x00#8) (g : Flag) (v : Bool) (n : Nat) :
    (b.setFlag g v).f.getLsbD n = if n = g.bit then v else b.f.getLsbD n := by
  rw [RegBank.setFlag_f h]
  cases v with
  | true => by_cases hn : n = g.bit <;> simp [Flag.mask_getLsbD, hn]
  | false =>
    by_cases hn : n = g.bit
    · simp [Flag.mask_getLsbD, hn]
    · simpa [Flag.mask_getLsbD, hn] using BitVec.lt_of_getLsbD

/-! ## The halves of a masked word -/

theorem hiByte_and (v w : Word) : hiByte (v &&& w) = hiByte v &&& hiByte w := BitVec.extractLsb'_and ..

theorem loByte_and (v w : Word) : loByte (v &&& w) = loByte v &&& loByte w := BitVec.extractLsb'_and ..

/-- AF reads back with the low four bits of its low half zero (rules R24, R27). -/
theorem joinBytes_maskF (v : Word) : joinBytes (hiByte v) (maskF (loByte v)) = v &&& 0xFFF0#16 :=
  calc joinBytes (hiByte v) (maskF (loByte v))
      = joinBytes (hiByte (v &&& 0xFFF0#16)) (loByte (v &&& 0xFFF0#16)) := by
        rw [hiByte_and, loByte_and]
        congr 1
        exact BitVec.and_allOnes.symm
    _ = v &&& 0xFFF0#16 := joinBytes_hiByte_loByte _

end Sys2Proof.Machine
end

section
/-! PROOF. The obligations about the state (10_state.md), each from the lemmas above. -/

namespace Sys2Proof.Machine

/-- Settles O41: by the driver, and under the debugger by its control state; each end of a transition is a `Done` call
or one of the small operations that keep the invariant. -/
theorem everyStepKeepsTheInvariant : Obligations.EveryStepKeepsTheInvariant := by
  unfold Obligations.EveryStepKeepsTheInvariant
  intro s t h hstep
  cases hd : s.driver with
  | frameLoop => exact frameTurn_keeps_inv h (step_frameLoop hd ▸ hstep)
  | debugger => exact debuggerTurn_keeps_inv h (step_debugger hd ▸ hstep)

/-- Settles O6: a write to F is masked, and a step does not write F. -/
theorem flagRegisterKeepsLowBitsZero : Obligations.FlagRegisterKeepsLowBitsZero := by
  unfold Obligations.FlagRegisterKeepsLowBitsZero
  refine ⟨fun _ _ => rfl, fun _ _ => rfl, fun r _ _ _ => maskF_low (r .F), fun s t h hstep => ?_⟩
  rwa [(step_f_sp hstep).1]

/-- Settles O9: F after the write, read bit by bit. -/
theorem settingAFlagRewritesOneBit : Obligations.SettingAFlagRewritesOneBit := by
  unfold Obligations.SettingAFlagRewritesOneBit
  intro b g v h
  refine ⟨?_, fun n hn => ?_, rfl, rfl, rfl, rfl, rfl⟩
  · exact (RegBank.setFlag_getLsbD h g v g.bit).trans (if_pos rfl)
  · exact (RegBank.setFlag_getLsbD h g v n).trans (if_neg hn)

/-- Settles O10: no dispatch entry of rule R147 writes F or SP, and a step changes the bank by a call only. -/
theorem flagsAndStackPointerNeverChange : Obligations.FlagsAndStackPointerNeverChange := by
  unfold Obligations.FlagsAndStackPointerNeverChange
  exact fun _ _ => step_f_sp

/-- Settles O27: by the inversion of `fetch`, and since a step leaves the instruction in flight or fetches one. -/
theorem fetchInstallsAFreshInstruction : Obligations.FetchInstallsAFreshInstruction := by
  unfold Obligations.FetchInstallsAFreshInstruction
  refine ⟨fun s t h => ?_, fun _ i _ => tag_ne_NONE i, fun s t hs h => ?_⟩
  · obtain ⟨b, i, hb, hd, rfl⟩ := fetch_inv h
    exact ⟨b, i, hb, hd, rfl⟩
  · rw [InstructionState.tag_ne_NONE_iff] at hs ⊢
    exact step_instr_ne_none hs h

/-- Settles O29: by where the dispatch started. After a fetch it runs cycle 1; in flight the invariant puts the counter
strictly between 0 and the instruction's count, which also rules out the sentinel. -/
theorem programCounterChangesInThreeWays : Obligations.ProgramCounterChangesInThreeWays := by
  unfold Obligations.ProgramCounterChangesInThreeWays
  intro s t h hc
  obtain ⟨-, u, hu, hrun⟩ := cycle_next hc
  have hlt := hu.counter_lt h.counterLe
  cases hu with
  | fetched hr _ i => exact .inl ⟨hr, i, (runCycle_frame hrun).instr, runCycle_fetched_pc hrun⟩
  | inFlight hr =>
    refine .inr ⟨hr, ?_⟩
    cases hi : s.is.instr with
    | none => rw [InstructionState.cycles_of_none hi] at hlt; exact absurd hlt (Nat.not_lt_zero _)
    | some i =>
      have hpos : 1 ≤ s.is.counter := h.counterPos (by simp [hi])
      rw [InstructionState.cycles_of_some hi] at hlt
      rw [InstructionState.tag_of_some hi]
      exact runCycle_inFlight_pc hi hpos hlt hrun

/-- Settles O7: the value of joined bytes, for each pair. -/
theorem pairReadsJoinTheirHalves : Obligations.PairReadsJoinTheirHalves := by
  unfold Obligations.PairReadsJoinTheirHalves
  exact fun _ => ⟨joinBytes_toNat _ _, joinBytes_toNat _ _, joinBytes_toNat _ _, joinBytes_toNat _ _⟩

/-- Settles O8: the writes by evaluation; the reads since a word is its two bytes joined. -/
theorem pairWritesGoThroughToTheHalves : Obligations.PairWritesGoThroughToTheHalves := by
  unfold Obligations.PairWritesGoThroughToTheHalves
  exact fun _ v => ⟨rfl, rfl, rfl, rfl, joinBytes_hiByte_loByte v, joinBytes_hiByte_loByte v, joinBytes_hiByte_loByte v,
    joinBytes_maskF v⟩

/-- Settles O38: field by field; the reset InstructionState is retired since the sentinel's count is 0. -/
theorem resetStateOfEveryParameter : Obligations.ResetStateOfEveryParameter := by
  unfold Obligations.ResetStateOfEveryParameter
  refine ⟨fun r m img d => ⟨rfl, rfl, fun q hq => ?_, rfl, rfl, rfl, rfl, rfl, rfl, rfl, rfl, rfl, rfl, rfl⟩, rfl⟩
  cases q with
  | F => exact absurd rfl hq
  | A | B | C | D | E | H | L => rfl

/-- Settles O40: the empty memory of `State.reset` is one of the canonical ones. -/
theorem resetSatisfiesTheInvariant : Obligations.ResetSatisfiesTheInvariant := by
  unfold Obligations.ResetSatisfiesTheInvariant
  exact ⟨resetWith_inv _ _ _ Memory.wf_reset rfl, fun r _ img d hm hb => resetWith_inv r img d hm hb⟩

end Sys2Proof.Machine
end

section
/-! PROOF. The address space and its memory primitives (20_memory.md), in layers: the map by its ranges, the policies
and BACKING by kind, working RAM and its echo, what a store that succeeds leaves behind, the bytes of an image read. -/

namespace Sys2Proof.Machine

/-! ## The map by its ranges (rules R61 to R63) -/

theorem RegionRange.holds_iff {r : RegionRange} {n : Nat} : r.holds n = true ↔ r.first ≤ n ∧ n ≤ r.last := by
  simp [RegionRange.holds]

/-- Two ranges of the default map that hold one address are the same. -/
theorem regionMap_eq_of_holds {r q : RegionRange} {n : Nat} (hr : r ∈ regionMap) (hq : q ∈ regionMap)
    (hrn : r.holds n = true) (hqn : q.holds n = true) : r = q := by
  rw [RegionRange.holds_iff] at hrn hqn
  obtain h | h | h := regionMap_disjoint r hr q hq
  · exact h
  · omega
  · omega

/-- The default map has one range of each kind. -/
theorem regionMap_eq_of_kind : ∀ r ∈ regionMap, ∀ q ∈ regionMap, r.kind = q.kind → r = q := by decide

/-- An address is of a range's kind exactly when it lies in the range. -/
theorem classify_eq_kind_iff (a : Word) {k : Region} {lo hi : Nat} (hr : ⟨k, lo, hi⟩ ∈ regionMap) :
    classify a = k ↔ lo ≤ a.toNat ∧ a.toNat ≤ hi := by
  obtain ⟨q, hq, hlo, hhi, hk⟩ := classify_range a
  constructor
  · intro h
    obtain rfl := regionMap_eq_of_kind _ hr q hq (h.symm.trans hk)
    exact ⟨hlo, hhi⟩
  · intro h
    obtain rfl := regionMap_eq_of_holds hr hq (RegionRange.holds_iff.mpr h) (RegionRange.holds_iff.mpr ⟨hlo, hhi⟩)
    exact hk

theorem classify_WRAM_iff (a : Word) : classify a = .WRAM ↔ 0xC000 ≤ a.toNat ∧ a.toNat ≤ 0xDFFF :=
  classify_eq_kind_iff a (by decide)

theorem classify_ECHO_iff (a : Word) : classify a = .ECHO ↔ 0xE000 ≤ a.toNat ∧ a.toNat ≤ 0xFDFF :=
  classify_eq_kind_iff a (by decide)

/-! ## The policies and BACKING by kind (rules R65, R70) -/

theorem writePolicy_eq_readOnly_iff {r : Region} :
    writePolicy r = .readOnly ↔ r = .ROM0 ∨ r = .ROMX ∨ r = .ECHO := by
  cases r <;> decide

theorem writePolicy_eq_unwritable_iff {r : Region} : writePolicy r = .unwritable ↔ r = .GAP := by cases r <;> decide

theorem backing_eq_image_iff {r : Region} : backing r = .image ↔ r = .ROM0 ∨ r = .ROMX := by cases r <;> decide

theorem backing_eq_placeholder_iff {r : Region} : backing r = .placeholder ↔ r = .EXTRAM := by cases r <;> decide

theorem backing_eq_storage_iff {r : Region} :
    backing r = .storage ↔ r = .WRAM ∨ r = .VRAM ∨ r = .OAM ∨ r = .IO ∨ r = .HRAM ∨ r = .IE := by
  cases r <;> decide

/-- A write to a writable kind succeeds: its cell takes the byte, or the placeholder discards it (rules R65, R74). -/
theorem exists_memWrite_ok (s : State) {a : Word} (h : writePolicy (classify a) = .writable) (v : Byte) :
    ∃ t, memWrite s a v = .ok t := by
  obtain hb | hb := backing_of_writable h
  · exact ⟨_, memWrite_storage s hb v⟩
  · exact ⟨_, memWrite_extram s (backing_eq_placeholder_iff.mp hb) v⟩

/-! ## Working RAM and its echo (rule R71) -/

/-- Below an echo address by 0x2000 lies working RAM. -/
theorem classify_below_echo {a : Word} (h : classify a = .ECHO) :
    classify (a - 0x2000#16) = .WRAM ∧ (a - 0x2000#16).toNat = a.toNat - 0x2000 := by
  rw [classify_ECHO_iff] at h
  have hn : (a - 0x2000#16).toNat = a.toNat - 0x2000 :=
    BitVec.toNat_sub_of_le (BitVec.le_def.mpr (show 0x2000 ≤ a.toNat by omega))
  exact ⟨(classify_WRAM_iff _).mpr (by omega), hn⟩

/-- Above working RAM by 0x2000 lies its echo, as far as the echo goes. -/
theorem classify_above_wram {a : Word} (h : classify a = .WRAM) (ha : a.toNat ≤ 0xDDFF) :
    classify (a + 0x2000#16) = .ECHO := by
  rw [classify_WRAM_iff] at h
  have hn : (a + 0x2000#16).toNat = a.toNat + 0x2000 :=
    BitVec.toNat_add_of_lt (show a.toNat + 0x2000 < 2 ^ 16 by omega)
  exact (classify_ECHO_iff _).mpr (by omega)

/-- An echo address reads what working RAM reads 0x2000 below it. -/
theorem memRead_echo_eq_below (s : State) {a : Word} (h : classify a = .ECHO) :
    memRead s a = memRead s (a - 0x2000#16) := by
  obtain ⟨hw, hn⟩ := classify_below_echo h
  rw [memRead_echo s h, memRead_storage s (backing_eq_storage_iff.mpr (.inl hw)), hn]

/-! ## After a store that succeeds (rules R73, R74) -/

/-- Outside the placeholder a store that succeeds writes the cell at its address. -/
theorem memWrite_ok_of_ne_extram {s t : State} {a : Word} {v : Byte} (h : memWrite s a v = .ok t)
    (ha : classify a ≠ .EXTRAM) : backing (classify a) = .storage ∧ t = s.writeCell a.toNat v :=
  (memWrite_ok h).resolve_right fun hx => ha hx.1

/-- In the placeholder a store changes nothing. -/
theorem memWrite_ok_of_extram {s t : State} {a : Word} {v : Byte} (h : memWrite s a v = .ok t)
    (ha : classify a = .EXTRAM) : t = s :=
  Except.ok.inj (h.symm.trans (memWrite_extram s ha v))

/-- Outside the placeholder the stored byte is read back. -/
theorem memRead_of_memWrite {s t : State} {a : Word} {v : Byte} (hwf : s.mem.wf = true)
    (h : memWrite s a v = .ok t) (ha : classify a ≠ .EXTRAM) : memRead t a = .ok v := by
  obtain ⟨hb, rfl⟩ := memWrite_ok_of_ne_extram h ha
  rw [memRead_storage _ hb, State.writeCell_mem, Memory.read_write_same hwf]

/-! ## The bytes of an image read (rule R78) -/

theorem Image.bigEndian_succ (img : Image) (addr n : Nat) :
    img.bigEndian addr (n + 1) = img.bigEndian addr n * 256 + (img.byteAt (addr + n)).toNat := rfl

theorem Image.bigEndian_lt (img : Image) (addr n : Nat) : img.bigEndian addr n < 256 ^ n := by
  induction n with
  | zero => exact Nat.one_pos
  | succ n ih =>
    have hb := (img.byteAt (addr + n)).isLt
    rw [Image.bigEndian_succ, pow_succ]
    omega

/-- The last byte read is the lowest digit, and the bytes before it are the other digits. -/
theorem Image.bigEndian_div_mod (img : Image) (addr n : Nat) :
    img.bigEndian addr (n + 1) / 256 = img.bigEndian addr n ∧
      img.bigEndian addr (n + 1) % 256 = (img.byteAt (addr + n)).toNat := by
  have hb := (img.byteAt (addr + n)).isLt
  rw [Image.bigEndian_succ]
  omega

/-- Byte `k` of a read is digit `k` to base 256, counted from the most significant. -/
theorem Image.bigEndian_digit (img : Image) (addr : Nat) {n k : Nat} (hk : k < n) :
    img.bigEndian addr n / 256 ^ (n - 1 - k) % 256 = (img.byteAt (addr + k)).toNat := by
  induction n with
  | zero => exact absurd hk (Nat.not_lt_zero k)
  | succ n ih =>
    obtain ⟨hdiv, hmod⟩ := img.bigEndian_div_mod addr n
    obtain hlt | rfl := Nat.lt_succ_iff_lt_or_eq.mp hk
    · have hexp : n + 1 - 1 - k = (n - 1 - k) + 1 := by omega
      rw [hexp, pow_succ', ← Nat.div_div_eq_div_mul, hdiv]
      exact ih hlt
    · simpa using hmod

theorem imageRead_ok {img : Image} {addr count : Nat} (hc : count ≤ 4) (hb : addr + count ≤ img.len) :
    imageRead img addr count = .ok (img.bigEndian addr count) := by
  rw [imageRead, if_neg (by omega), if_neg (by omega)]

end Sys2Proof.Machine
end

section
/-! PROOF. The obligations about the address space and memory (20_memory.md), each from the lemmas above. -/

namespace Sys2Proof.Machine

/-- Settles O12: the range that classifies the address; two ranges of the map that hold it are the same. -/
theorem exactlyOneRangeHoldsEachAddress : Obligations.ExactlyOneRangeHoldsEachAddress := by
  unfold Obligations.ExactlyOneRangeHoldsEachAddress
  intro a
  obtain ⟨r, hr, hlo, hhi, hk⟩ := classify_range a
  have hra : r.holds a.toNat = true := RegionRange.holds_iff.mpr ⟨hlo, hhi⟩
  exact ⟨r, hr, hra, hk.symm, fun q hq hqa => regionMap_eq_of_holds hq hr hqa hra⟩

/-- Settles O15: MemRead by what stands behind the region, and RomRead by the image's length. -/
theorem readByRegion : Obligations.ReadByRegion := by
  unfold Obligations.ReadByRegion
  intro s a img himg
  refine ⟨fun hrom => ?_, memRead_extram s, fun hecho => ⟨memRead_echo s hecho, memRead_echo_eq_below s hecho⟩,
    fun hst => memRead_storage s (backing_eq_storage_iff.mpr hst)⟩
  rw [memRead_rom s (backing_eq_image_iff.mpr hrom)]
  split
  · next hin => exact romRead_inside himg hin
  · next hout => exact romRead_beyond himg (Nat.le_of_not_lt hout)

/-- Settles O16: a read after a write of the same cell; the echo of working RAM has that cell too. -/
theorem storedByteReadsBack : Obligations.StoredByteReadsBack := by
  unfold Obligations.StoredByteReadsBack
  intro s t a v hwf hw
  refine ⟨memRead_of_memWrite hwf hw, fun hram ha => ?_, fun hext => ?_⟩
  · rw [memRead_echo_eq_below t (classify_above_wram hram ha), BitVec.add_sub_cancel]
    exact memRead_of_memWrite hwf hw (by simp [hram])
  · exact ⟨memWrite_ok_of_extram hw hext, memRead_extram t hext⟩

/-- Settles O17: a store writes the one cell behind its address, or in the placeholder nothing. -/
theorem storeLeavesEveryOtherByte : Obligations.StoreLeavesEveryOtherByte := by
  unfold Obligations.StoreLeavesEveryOtherByte
  intro s t a v hw
  obtain ⟨hb, rfl⟩ | ⟨-, rfl⟩ := memWrite_ok hw
  · rw [storageCell_of_storage hb]
    refine ⟨fun x hx => memRead_writeCell_other s v ?_, rfl, fun k hk => ?_⟩
    · obtain hnone | hne := hx
      · simp [hnone]
      · exact hne
    · exact Memory.read_write_other (fun e => hk (congrArg some e.symm)) s.mem v
  · exact ⟨fun _ _ => rfl, rfl, fun _ _ => rfl⟩

/-- Settles O18: the two checks in their order, then the value digit by digit. -/
theorem imageReadIsBigEndian : Obligations.ImageReadIsBigEndian := by
  unfold Obligations.ImageReadIsBigEndian
  intro img addr count
  refine ⟨fun hc => if_pos hc, fun hc hb => ?_, fun hc hb => ?_⟩
  · rw [imageRead, if_neg (Nat.not_lt.mpr hc), if_pos hb]
  · exact ⟨_, imageRead_ok hc hb, img.bigEndian_lt addr count, fun _ => img.bigEndian_digit addr⟩

/-- Settles O32: the byte reads back in any state with that memory and image, so the fetch installs its instruction. -/
theorem storedByteIsFetchedAsAnOpcode : Obligations.StoredByteIsFetchedAsAnOpcode := by
  unfold Obligations.StoredByteIsFetchedAsAnOpcode
  intro s t u a v i hwf hw hext hdec hmem himg hne hret hpc
  subst hpc
  have hread : memRead u u.bank.pc = .ok v :=
    (memRead_congr hmem himg _).trans (memRead_of_memWrite hwf hw hext)
  rw [cycle_retired hne hret, fetch_ok hread hdec]
  exact runCycle_some rfl

/-- Settles O11: each kind's range in the default map. -/
theorem regionOfEveryAddress : Obligations.RegionOfEveryAddress := by
  unfold Obligations.RegionOfEveryAddress
  intro a
  have hROM0 : classify a = .ROM0 ↔ 0x0000 ≤ a.toNat ∧ a.toNat ≤ 0x3FFF := classify_eq_kind_iff a (by decide)
  have hIE : classify a = .IE ↔ 0xFFFF ≤ a.toNat ∧ a.toNat ≤ 0xFFFF := classify_eq_kind_iff a (by decide)
  exact ⟨hROM0.trans (and_iff_right (Nat.zero_le _)), classify_eq_kind_iff a (by decide),
    classify_eq_kind_iff a (by decide), classify_eq_kind_iff a (by decide), classify_WRAM_iff a, classify_ECHO_iff a,
    classify_eq_kind_iff a (by decide), classify_eq_kind_iff a (by decide), classify_eq_kind_iff a (by decide),
    classify_eq_kind_iff a (by decide), hIE.trans (by omega)⟩

/-- Settles O13: a read that fails outside the gap fails with OutOfBounds. -/
theorem onlyTheGapIsUnreadable : Obligations.OnlyTheGapIsUnreadable := by
  unfold Obligations.OnlyTheGapIsUnreadable
  refine fun s a => ⟨memRead_gap s, fun hgap x hx => ?_⟩
  obtain ⟨-, hc⟩ | ⟨hf, -⟩ := memRead_error hx
  · exact hgap hc
  · cases hf

/-- Settles O14: by the write policy of the region. -/
theorem writePolicyByRegion : Obligations.WritePolicyByRegion := by
  unfold Obligations.WritePolicyByRegion
  refine fun s a v => ⟨fun h => memWrite_readOnly s (writePolicy_eq_readOnly_iff.mpr h) v,
    fun h => memWrite_gap s h v, fun hrom0 hromx hecho hgap => ?_⟩
  cases hp : writePolicy (classify a) with
  | writable => exact exists_memWrite_ok s hp v
  | readOnly => exact absurd (writePolicy_eq_readOnly_iff.mp hp) (by simp [hrom0, hromx, hecho])
  | unwritable => exact absurd (writePolicy_eq_unwritable_iff.mp hp) hgap

end Sys2Proof.Machine
end

section
/-! PROOF. The decoder and the encoder over a byte stream (30_encoding.md), in layers: what DECODE answers for one byte,
what the stream decoder answers, the cycle counts of the tags. -/

namespace Sys2Proof

/-! ## One opcode byte -/

/-- DECODE recognizes exactly the opcode bytes of the instructions (rules R118, R121). -/
theorem decode_eq_recognized_iff {b : Byte} {i : Instr} : decode b = .recognized i ↔ i.opcode = b :=
  ⟨opcode_of_decode, fun h => h ▸ decode_opcode i⟩

/-- The outcome Unrecognized is the absence of every instruction (rule R121). -/
theorem decode_eq_unrecognized_iff {b : Byte} : decode b = .unrecognized ↔ ∀ i : Instr, i.opcode ≠ b := by
  simp only [ne_eq, ← decode_eq_recognized_iff]
  cases decode b with
  | recognized i => simp
  | unrecognized => simp

set_option maxRecDepth 10000 in
/-- Of the 256 bytes, all but the 65 opcodes are Unrecognized (rule R121). -/
theorem unrecognized_count :
    ((List.range 256).filter fun n => decide (decode (BitVec.ofNat 8 n) = .unrecognized)).length = 191 := by decide

/-! ## A byte stream -/

theorem StreamInstr.wellFormed_iff (x : StreamInstr) :
    x.wellFormed = true ↔ x.operands.length = x.instr.operandBytes := by
  simp [StreamInstr.wellFormed]

/-- After a recognized opcode byte, the operand bytes the tag asks for are split off a stream that has them. -/
theorem decodeStream_of_long_enough {b : Byte} {i : Instr} {tail : List Byte} (hb : decode b = .recognized i)
    (hlen : i.operandBytes ≤ tail.length) :
    decodeStream (b :: tail) = .ok { instr := i, operands := tail.take i.operandBytes } (tail.drop i.operandBytes) := by
  simp [decodeStream, hb, Nat.not_lt.mpr hlen]

/-- What an accepted stream looks like: a recognized opcode byte, then at least the operand bytes of its tag, and the
answer splits the tail there. -/
theorem decodeStream_eq_ok {bytes rest : List Byte} {x : StreamInstr} (h : decodeStream bytes = .ok x rest) :
    ∃ tail, bytes = x.instr.opcode :: tail ∧ x.instr.operandBytes ≤ tail.length ∧
      x.operands = tail.take x.instr.operandBytes ∧ rest = tail.drop x.instr.operandBytes := by
  cases bytes with
  | nil => cases h
  | cons b tail =>
    cases hb : decode b with
    | unrecognized => simp [decodeStream, hb] at h
    | recognized i =>
      by_cases hlen : tail.length < i.operandBytes
      · simp [decodeStream, hb, hlen] at h
      · have hle : i.operandBytes ≤ tail.length := Nat.not_lt.mp hlen
        rw [decodeStream_of_long_enough hb hle] at h
        cases h
        exact ⟨tail, by rw [opcode_of_decode hb], hle, rfl, rfl⟩

/-! ## The cycle counts of the tags -/

/-- No tag has more than 6 cycles (rule R120). -/
theorem Tag.cycles_le_six (t : Tag) : t.cycles ≤ 6 := by
  cases t <;> simp [Tag.cycles]

/-- The cycle count of an instruction is read off its tag. -/
theorem Instr.cycles_of_tag {i : Instr} {t : Tag} (h : i.tag = t) : i.cycles = t.cycles := congrArg Tag.cycles h

end Sys2Proof
end

section
/-! PROOF. The obligations about the encoding (30_encoding.md), each from the lemmas above. -/

namespace Sys2Proof.Machine

/-- Settles O2: the opcode byte decodes to the instruction, and well-formedness puts the cut between its operand bytes
and what follows them. -/
theorem decodingInvertsEncoding : Obligations.DecodingInvertsEncoding := by
  unfold Obligations.DecodingInvertsEncoding
  intro x rest hwf
  have hn : x.instr.operandBytes = x.operands.length := (x.wellFormed_iff.mp hwf).symm
  have hlen : x.instr.operandBytes ≤ (x.operands ++ rest).length := by simp [hn]
  calc decodeStream (encode x ++ rest)
      = decodeStream (x.instr.opcode :: (x.operands ++ rest)) := rfl
    _ = .ok { instr := x.instr, operands := (x.operands ++ rest).take x.instr.operandBytes }
          ((x.operands ++ rest).drop x.instr.operandBytes) := decodeStream_of_long_enough (decode_opcode x.instr) hlen
    _ = .ok x rest := by rw [hn, List.take_left, List.drop_left]

/-- Settles O3: the answer's two parts are the tail of the stream cut at the operand count, so they join to it again. -/
theorem encodingInvertsDecoding : Obligations.EncodingInvertsDecoding := by
  unfold Obligations.EncodingInvertsDecoding
  intro bytes x rest h
  obtain ⟨tail, rfl, hlen, hops, rfl⟩ := decodeStream_eq_ok h
  refine ⟨x.wellFormed_iff.mpr ?_, ?_⟩
  · rw [hops, List.length_take_of_le hlen]
  · rw [encode, hops, List.cons_append, List.take_append_drop]

/-- Settles O1: a recognized byte is the opcode of its instruction; the five others are evaluated. -/
theorem writtenOutBytesDecode : Obligations.WrittenOutBytesDecode := by
  unfold Obligations.WrittenOutBytesDecode
  exact ⟨decode_opcode .nop, decode_opcode .ld_B_n, decode_opcode .ld_A_n, decode_opcode .ld_B_A,
    decode_opcode .ld_L_H, decode_opcode .ld_A_B, decode_opcode .ld_atHL_B, decode_opcode .ld_atHL_A,
    decode_opcode .jp_nn, by decide⟩

/-- Settles O4: Unrecognized is the absence of every instruction; the count is over the 256 bytes. -/
theorem unlistedBytesAreUnrecognized : Obligations.UnlistedBytesAreUnrecognized := by
  unfold Obligations.UnlistedBytesAreUnrecognized
  exact ⟨fun _ => decode_eq_unrecognized_iff, unrecognized_count⟩

/-- Settles O5: the bounds of every count and, for each tag, the count the tag has. -/
theorem cycleCountsByTag : Obligations.CycleCountsByTag := by
  unfold Obligations.CycleCountsByTag
  intro i
  exact ⟨one_le_cycles i, i.tag.cycles_le_six, tag_ne_NONE i, Instr.cycles_of_tag, fun _ => Instr.cycles_of_tag,
    fun _ _ => Instr.cycles_of_tag, fun _ => Instr.cycles_of_tag, Instr.cycles_of_tag⟩

end Sys2Proof.Machine
end

section
/-! PROOF. The Execution Engine (40_execution_engine.md), in layers: when an instruction is retired, the counts at which
a dispatch does something, a call of `cycle()` by its cases, what a run of calls does to the instruction in flight, the
answers of `peek()`, a read in ROM. -/

namespace Sys2Proof.Machine

/-! ## Retirement (rule R37) -/

theorem InstructionState.retired_iff_of_some {x : InstructionState} {i : Instr} (h : x.instr = some i) :
    x.retired = true ↔ x.counter = i.cycles := by
  rw [InstructionState.retired_iff, InstructionState.cycles_of_some h]

theorem InstructionState.not_retired_of_lt {x : InstructionState} {i : Instr} (h : x.instr = some i)
    (hlt : x.counter < i.cycles) : x.retired = false :=
  Bool.eq_false_iff.mpr fun hr => hlt.ne ((InstructionState.retired_iff_of_some h).mp hr)

/-! ## The dispatch table's counts (rules R147, R148) -/

/-- A dispatch that changes the state stands at a count between 1 and the instruction's cycles. -/
theorem exec_next_count {i : Instr} {s t : State} (h : exec i s = .next t) (hne : t ≠ s) :
    1 ≤ s.is.counter ∧ s.is.counter ≤ i.cycles := by
  cases exec_next h with
  | nothing ht => exact absurd ht hne
  | loadRead _ htag hc => have hn : i.cycles = 2 := Instr.cycles_of_tag htag; omega
  | loadWrite _ htag hc => have hn : i.cycles = 2 := Instr.cycles_of_tag htag; omega
  | move _ _ htag hc => have hn : i.cycles = 1 := Instr.cycles_of_tag htag; omega
  | store _ htag hc => have hn : i.cycles = 2 := Instr.cycles_of_tag htag; omega
  | jumpRead1 hi hc => have hn : i.cycles = 4 := hi ▸ rfl; omega
  | jumpRead2 hi hc => have hn : i.cycles = 4 := hi ▸ rfl; omega
  | jumpCommit hi hc => have hn : i.cycles = 4 := hi ▸ rfl; omega

/-- A dispatch that faults stands at a count between 1 and the instruction's cycles. -/
theorem exec_fault_count {i : Instr} {s : State} {f : Fault} (h : exec i s = .fault f) :
    1 ≤ s.is.counter ∧ s.is.counter ≤ i.cycles := by
  cases exec_fault h with
  | operand htag =>
    obtain ⟨_, htag, hc⟩ | ⟨hi, hc⟩ := htag
    · have hn : i.cycles = 2 := Instr.cycles_of_tag htag
      omega
    · have hn : i.cycles = 4 := hi ▸ rfl
      omega
  | store _ htag hc => have hn : i.cycles = 2 := Instr.cycles_of_tag htag; omega

/-! ## A call by its cases (rules R141 to R147) -/

theorem fetch_readError {s : State} {f : Fault} (hm : memRead s s.bank.pc = .error f) : fetch s = .error f := by
  simp [fetch, hm]

theorem fetch_unrecognized {s : State} {b : Byte} (hm : memRead s s.bank.pc = .ok b) (hd : decode b = .unrecognized) :
    fetch s = .error (.invalidOpcode b s.bank.pc) := by
  simp [fetch, hm, hd]

theorem cycle_noImage {s : State} (h : s.image = none) : cycle s = .refused .noImage := by
  simp [cycle, h]

section RetiredCall
variable {s : State} (hi : s.image ≠ none) (hr : s.is.retired = true)
include hi hr

theorem cycle_readError {f : Fault} (hm : memRead s s.bank.pc = .error f) : cycle s = .fault f := by
  rw [cycle_retired hi hr, fetch_readError hm]

theorem cycle_unrecognized {b : Byte} (hm : memRead s s.bank.pc = .ok b) (hd : decode b = .unrecognized) :
    cycle s = .fault (.invalidOpcode b s.bank.pc) := by
  rw [cycle_retired hi hr, fetch_unrecognized hm hd]

theorem cycle_recognized {b : Byte} {i : Instr} (hm : memRead s s.bank.pc = .ok b) (hd : decode b = .recognized i) :
    cycle s = exec i (s.advancePc.install i).tick := by
  rw [cycle_retired hi hr, fetch_ok hm hd]
  exact runCycle_some rfl

end RetiredCall

/-- A call on an instruction in flight dispatches it at the next count. -/
theorem cycle_inFlight_some {s : State} {i : Instr} (himg : s.image ≠ none) (hr : s.is.retired = false)
    (hi : s.is.instr = some i) : cycle s = exec i s.tick := by
  rw [cycle_inFlight himg hr, runCycle_some hi]

/-- A `Done` call increments the counter once, from 0 after a fetch (rules R146, R149). -/
theorem cycle_counter {s t : State} (h : cycle s = .next t) :
    t.is.counter = (if s.is.retired then 0 else s.is.counter) + 1 := by
  obtain ⟨-, u, hu, hrun⟩ := cycle_next h
  rw [(runCycle_frame hrun).counter]
  cases hu with
  | fetched hr => simp [hr]
  | inFlight hr => simp [hr]

/-- Without a fetch a `Done` call keeps the instruction. -/
theorem cycle_instr_inFlight {s t : State} (hr : s.is.retired = false) (h : cycle s = .next t) :
    t.is.instr = s.is.instr := by
  obtain ⟨-, u, hu, hrun⟩ := cycle_next h
  cases hu with
  | fetched hr' => simp [hr'] at hr
  | inFlight _ => exact (runCycle_frame hrun).instr

/-- With a fetch a `Done` call runs the instruction it fetched. -/
theorem cycle_instr_fetched {s t : State} {b : Byte} {i : Instr} (hr : s.is.retired = true)
    (hm : memRead s s.bank.pc = .ok b) (hd : decode b = .recognized i) (h : cycle s = .next t) :
    t.is.instr = some i := by
  obtain ⟨⟨img, himg⟩, -⟩ := cycle_next h
  rw [cycle_recognized (by simp [himg]) hr hm hd] at h
  exact (exec_frame h).instr

/-- Cycle 4 of JP nn commits the target and changes nothing else (rule R201). -/
theorem cycle_jp_commit {s : State} (himg : s.image ≠ none) (hi : s.is.instr = some .jp_nn) (hc : s.is.counter = 3) :
    cycle s = .next (s.tick.setPc (joinBytes s.is.op1 s.is.op2)) := by
  have hr : s.is.retired = false := InstructionState.not_retired_of_lt hi (hc ▸ by decide)
  rw [cycle_inFlight_some himg hr hi]
  exact exec_jp_cycle4 (s := s.tick) (by simp [hc])

/-! ## A run of calls (rule R152) -/

theorem cycles_succ_next {k : Nat} {s t : State} (h : cycles (k + 1) s = .next t) :
    ∃ u, cycle s = .next u ∧ cycles k u = .next t := by
  unfold cycles at h
  split at h
  · next u hu => exact ⟨u, hu, h⟩
  · cases h
  · cases h

theorem cycles_outside {k : Nat} {s t : State} (h : cycles k s = .next t) : SameOutside s t := by
  induction k generalizing s with
  | zero => cases h; exact .refl _
  | succ k ih =>
    obtain ⟨u, hu, hrest⟩ := cycles_succ_next h
    exact (cycle_frame hu).outside.trans (ih hrest)

/-- As long as the instruction in flight has cycles left, `k` `Done` calls keep it and add `k` to its counter. -/
theorem cycles_inFlight {k : Nat} {s t : State} {i : Instr} (hi : s.is.instr = some i)
    (hle : s.is.counter + k ≤ i.cycles) (h : cycles k s = .next t) :
    t.is.instr = some i ∧ t.is.counter = s.is.counter + k := by
  induction k generalizing s with
  | zero => cases h; exact ⟨hi, rfl⟩
  | succ k ih =>
    obtain ⟨u, hu, hrest⟩ := cycles_succ_next h
    have hr : s.is.retired = false := InstructionState.not_retired_of_lt hi (by omega)
    have hcounter : u.is.counter = s.is.counter + 1 := by simpa [hr] using cycle_counter hu
    obtain ⟨hinstr, hsum⟩ := ih ((cycle_instr_inFlight hr hu).trans hi) (by omega) hrest
    exact ⟨hinstr, by omega⟩

/-! ## peek (rules R155, R157) -/

/-- Everything `peek()` can answer, with the case of `cycle()` it stands for. -/
inductive PeekAnswer (s : State) : Peek → Prop where
  | noImage (himg : s.image = none) : PeekAnswer s .noImage
  | readError (himg : s.image ≠ none) (hr : s.is.retired = true) (f : Fault)
      (hm : memRead s s.bank.pc = .error f) : PeekAnswer s (.fault f)
  | unrecognized (himg : s.image ≠ none) (hr : s.is.retired = true) (b : Byte) (hm : memRead s s.bank.pc = .ok b)
      (hd : decode b = .unrecognized) : PeekAnswer s (.raw b s.bank.pc)
  | recognized (himg : s.image ≠ none) (hr : s.is.retired = true) (b : Byte) (i : Instr)
      (hm : memRead s s.bank.pc = .ok b) (hd : decode b = .recognized i) : PeekAnswer s (.instr (.fresh i))
  | inFlight (himg : s.image ≠ none) (hr : s.is.retired = false) : PeekAnswer s (.instr s.is)

theorem peek_answer {s : State} {p : Peek} (h : peek s = p) : PeekAnswer s p := by
  subst h
  unfold peek
  split
  · next himg => exact .noImage himg
  · next img himg =>
    have hne : s.image ≠ none := by simp [himg]
    split
    · next hr =>
      split
      · next f hm => exact .readError hne hr f hm
      · next b hm =>
        split
        · next hd => exact .unrecognized hne hr b hm hd
        · next i hd => exact .recognized hne hr b i hm hd
    · next hr => exact .inFlight hne (Bool.eq_false_iff.mpr hr)

/-! ## A read in ROM (rules R72, R79) -/

theorem memRead_rom_inside {s : State} {a : Word} {img : Image} (hb : backing (classify a) = .image)
    (hi : s.image = some img) (ha : a.toNat < img.len) : memRead s a = .ok (img.byteAt a.toNat) :=
  (memRead_rom s hb).trans (romRead_inside hi ha)

end Sys2Proof.Machine
end

section
/-! PROOF. The obligations about the Execution Engine (40_execution_engine.md), each from the lemmas above. -/

namespace Sys2Proof.Machine

/-- Settles O24: a dispatch that changes the state or faults stands at a count of the table, and none refuses. -/
theorem pairsOutsideTheTableHaveNoEffect : Obligations.PairsOutsideTheTableHaveNoEffect := by
  unfold Obligations.PairsOutsideTheTableHaveNoEffect
  intro i s hc
  cases h : exec i s with
  | next t =>
    by_contra hne
    have hcount := exec_next_count h fun ht => hne (by rw [ht])
    omega
  | fault f =>
    have hcount := exec_fault_count h
    omega
  | refused r => exact absurd h (exec_ne_refused i s r)

/-- Settles O30: by the frame of a `Done` call and by where its dispatch started. -/
theorem cycleTouchesTheEngineOnly : Obligations.CycleTouchesTheEngineOnly := by
  unfold Obligations.CycleTouchesTheEngineOnly
  exact fun s t h => ⟨(cycle_frame h).outside, cycle_counter h, fun hr => cycle_instr_inFlight hr h⟩

/-- Settles O31: each answer of `peek` stands for one case of the call. -/
theorem peekPredictsTheNextCycle : Obligations.PeekPredictsTheNextCycle := by
  unfold Obligations.PeekPredictsTheNextCycle
  refine fun s => ⟨fun b a h => ?_, fun f h => ?_, fun h => ?_, fun x h hr => ?_, fun x h hr => ?_⟩
  · cases peek_answer h with
    | unrecognized himg hr _ hm hd => exact cycle_unrecognized himg hr hm hd
  · cases peek_answer h with
    | readError himg hr _ hm => exact cycle_readError himg hr hm
  · cases peek_answer h with
    | noImage himg => exact cycle_noImage himg
  · cases peek_answer h with
    | recognized _ _ b i hm hd => exact ⟨rfl, rfl, rfl, fun t ht => cycle_instr_fetched hr hm hd ht⟩
    | inFlight _ hr' => simp [hr] at hr'
  · cases peek_answer h with
    | recognized _ hr' => simp [hr] at hr'
    | inFlight => rfl

/-- Settles O33: the fetching call leaves counter 1, and each further call adds 1 as long as cycles are left. -/
theorem instructionRetiresAfterItsCycles : Obligations.InstructionRetiresAfterItsCycles := by
  unfold Obligations.InstructionRetiresAfterItsCycles
  intro s u i hr hu hi k t hk hrun
  have hpos : 1 ≤ i.cycles := one_le_cycles i
  have hone : u.is.counter = 1 := by simpa [hr] using cycle_counter hu
  obtain ⟨hinstr, hcounter⟩ := cycles_inFlight hi (by omega) hrun
  have hretired : t.is.retired = true ↔ k = i.cycles - 1 := by
    rw [InstructionState.retired_iff_of_some hinstr]
    omega
  have himg : t.image ≠ none := by
    obtain ⟨⟨img, himg⟩, -⟩ := cycle_next hu
    rw [(cycles_outside hrun).image, (cycle_frame hu).outside.image, himg]
    exact Option.some_ne_none img
  exact ⟨hinstr, by omega, hretired, fun hlast => cycle_retired himg (hretired.mpr hlast)⟩

/-- Settles O37: the state after the commit, whose next call is a fetch like any other. -/
theorem noIncrementIsPendingAfterAJump : Obligations.NoIncrementIsPendingAfterAJump := by
  unfold Obligations.NoIncrementIsPendingAfterAJump
  intro s himg hi hc
  have hr : (s.tick.setPc (joinBytes s.is.op1 s.is.op2)).is.retired = true :=
    (InstructionState.retired_iff_of_some (x := s.tick.is) hi).mpr (congrArg (· + 1) hc)
  refine ⟨_, cycle_jp_commit himg hi hc, joinBytes_toNat _ _, hr, cycle_retired himg hr, fun w hw => ?_⟩
  obtain ⟨b, i, hm, hd, rfl⟩ := fetch_inv hw
  exact ⟨rfl, b, i, hm, hd, rfl⟩

/-- Settles O39: the reset engine is retired, and its `pc` lies in ROM0 inside the image. -/
theorem firstCallFetchesAtTheEntry : Obligations.FirstCallFetchesAtTheEntry := by
  unfold Obligations.FirstCallFetchesAtTheEntry
  intro r m img d i hdec hlen
  have hread : memRead (State.resetWith r m (some img) d) Params.pcReset = .ok (img.byteAt 0x0100) :=
    memRead_rom_inside (by decide) rfl hlen
  exact cycle_recognized (Option.some_ne_none img) rfl hread hdec

/-- Settles O26: a step by the outcome of its call, and the call case by case. -/
theorem stepRunsTheDecodedInstruction : Obligations.StepRunsTheDecodedInstruction := by
  unfold Obligations.StepRunsTheDecodedInstruction
  refine ⟨fun s hd hf => ?_, fun s => ⟨cycle_noImage, fun himg hr => ?_, fun himg hr i hi => ?_⟩⟩
  · rw [step_frameLoop hd, frameTurn_running hf]
    exact ⟨fun t h => by rw [h], fun f h => by rw [h]; rfl, fun r h => by rw [h]⟩
  · exact ⟨fun f => cycle_readError himg hr, fun b => cycle_unrecognized himg hr, fun b i => cycle_recognized himg hr⟩
  · exact cycle_inFlight_some himg hr hi

end Sys2Proof.Machine
end

section
/-! PROOF. The loads (41_loads.md), in layers: the registers and `pc`, a store by the cell behind its address, the
dispatch entries of LD r,r' and LD (HL),r, what an instruction leaves by its tag, a run of one or two calls from a
retired engine. -/

namespace Sys2Proof.Machine

/-! ## Registers and `pc` (rules R20, R181) -/

/-- A write to `pc` leaves every 8-bit register. -/
@[simp] theorem RegBank.get_with_pc (b : RegBank) (w : Word) (r : Reg8) : { b with pc := w }.get r = b.get r := rfl

/-- An operand register is not F, so it holds what is written to it. -/
theorem RegBank.get_set_reg (b : RegBank) (r : OpReg) (v : Byte) : (b.set r.reg v).get r.reg = v :=
  b.get_set_same (OpReg.reg_ne_F r) v

/-- A write to an operand register commutes with a write to `pc`. -/
theorem RegBank.set_with_pc (b : RegBank) (w : Word) (r : OpReg) (v : Byte) :
    { b with pc := w }.set r.reg v = { b.set r.reg v with pc := w } := by
  cases r <;> rfl

/-! ## A store by the cell behind its address (rules R70, R73) -/

/-- Outside the echo a cell behind an address is its own array's, and a store writes it. -/
theorem memWrite_cell (s : State) {a : Word} {k : Nat} (hk : storageCell a = some k) (he : classify a ≠ .ECHO)
    (v : Byte) : memWrite s a v = .ok (s.writeCell k v) := by
  obtain ⟨hb, rfl⟩ := (storageCell_some hk).resolve_right fun h => he h.1
  exact memWrite_storage s hb v

/-- A store keeps the registers and the InstructionState. -/
theorem memWrite_bank_is {s t : State} {a : Word} {v : Byte} (h : memWrite s a v = .ok t) :
    t.bank = s.bank ∧ t.is = s.is := by
  obtain ⟨-, rfl⟩ | ⟨-, rfl⟩ := memWrite_ok h
  · exact ⟨rfl, rfl⟩
  · exact ⟨rfl, rfl⟩

/-! ## The dispatch of LD (HL),r (rule R182) -/

section StoreAtHL
variable {i : Instr} {src : OpReg} {s t : State} (htag : i.tag = .LD_HL_R src)
include htag

theorem exec_store_ok (hc : s.is.counter = 2)
    (hw : memWrite s (s.bank.getPair .HL) (s.bank.get src.reg) = .ok t) : exec i s = .next t := by
  rw [exec_store_cycle2 htag hc, storeByte_ok hw]

theorem exec_store_error {f : Fault} (hc : s.is.counter = 2)
    (hw : memWrite s (s.bank.getPair .HL) (s.bank.get src.reg) = .error f) : exec i s = .fault f := by
  rw [exec_store_cycle2 htag hc, storeByte_error hw]

/-- A dispatch of LD (HL),r does nothing, or it is the store. -/
theorem exec_store_next (h : exec i s = .next t) :
    t = s ∨ memWrite s (s.bank.getPair .HL) (s.bank.get src.reg) = .ok t := by
  rw [exec_of_store htag] at h
  unfold storeAtHL at h
  split at h
  · exact .inr (storeByte_next h)
  · cases h; exact .inl rfl

/-- Every byte that is not behind `xx[HL]` reads as before. -/
theorem exec_store_memRead (h : exec i s = .next t) {x : Word}
    (hx : storageCell x = none ∨ storageCell x ≠ storageCell (s.bank.getPair .HL)) : memRead t x = memRead s x := by
  obtain rfl | hw := exec_store_next htag h
  · rfl
  · exact (storeLeavesEveryOtherByte s t _ _ hw).1 x hx

end StoreAtHL

/-! ## What an instruction leaves, by its tag (rules R183, R202) -/

/-- A register that is no destination of the instruction keeps its value. -/
theorem exec_get {i : Instr} {s t : State} {q : Reg8} (h : exec i s = .next t)
    (hq : ∀ d : OpReg, (i.tag = .LD_R_N d ∨ ∃ r, i.tag = .LD_R_R d r) → q ≠ d.reg) :
    t.bank.get q = s.bank.get q := by
  cases exec_next h with
  | nothing ht => rw [ht]
  | loadWrite d htag _ ht => rw [ht]; exact s.bank.get_set_other (hq d (.inl htag)) _
  | move d r htag _ ht => rw [ht]; exact s.bank.get_set_other (hq d (.inr ⟨r, htag⟩)) _
  | store _ _ _ hw => rw [(memWrite_bank_is hw).1]
  | loadRead _ _ _ _ _ ht => rw [ht]; exact RegBank.get_with_pc _ _ q
  | jumpRead1 _ _ _ _ ht => rw [ht]; exact RegBank.get_with_pc _ _ q
  | jumpRead2 _ _ _ _ ht => rw [ht]; exact RegBank.get_with_pc _ _ q
  | jumpCommit _ _ ht => rw [ht]; exact RegBank.get_with_pc _ _ q

/-- Only LD r,n and JP nn move `pc` or touch the latches. -/
theorem exec_pc_is {i : Instr} {s t : State} (h : exec i s = .next t) (hload : ∀ d, i.tag ≠ .LD_R_N d)
    (hjump : i.tag ≠ .JP_NN) : t.bank.pc = s.bank.pc ∧ t.is = s.is := by
  cases exec_next h with
  | nothing ht => rw [ht]; exact ⟨rfl, rfl⟩
  | move _ _ _ _ ht => rw [ht]; exact ⟨RegBank.set_pc _ _ _, rfl⟩
  | store _ _ _ hw =>
    obtain ⟨hbank, his⟩ := memWrite_bank_is hw
    exact ⟨by rw [hbank], his⟩
  | loadRead d htag => exact absurd htag (hload d)
  | loadWrite d htag => exact absurd htag (hload d)
  | jumpRead1 hi => exact absurd (congrArg Instr.tag hi) hjump
  | jumpRead2 hi => exact absurd (congrArg Instr.tag hi) hjump
  | jumpCommit hi => exact absurd (congrArg Instr.tag hi) hjump

/-- Only LD (HL),r writes memory. -/
theorem exec_mem_of_ne_store {i : Instr} {s t : State} (h : exec i s = .next t) (hstore : ∀ r, i.tag ≠ .LD_HL_R r) :
    t.mem = s.mem := by
  cases exec_next h with
  | store r htag => exact absurd htag (hstore r)
  | nothing ht => rw [ht]
  | loadRead _ _ _ _ _ ht => rw [ht]; rfl
  | loadWrite _ _ _ ht => rw [ht]; rfl
  | move _ _ _ _ ht => rw [ht]; rfl
  | jumpRead1 _ _ _ _ ht => rw [ht]; rfl
  | jumpRead2 _ _ _ _ ht => rw [ht]; rfl
  | jumpCommit _ _ ht => rw [ht]; rfl

/-! ## One and two calls (rules R141, R152) -/

theorem cycles_succ_of_next {s t : State} (h : cycle s = .next t) (k : Nat) : cycles (k + 1) s = cycles k t := by
  simp [cycles, h]

theorem cycles_one (s : State) : cycles 1 s = cycle s := by
  cases h : cycle s <;> simp [cycles, h]

/-- Two calls, when the first is `Done`, are the call after it. -/
theorem cycles_two {s t : State} (h : cycle s = .next t) : cycles 2 s = cycle t :=
  (cycles_succ_of_next h 1).trans (cycles_one t)

section FromRetired
variable {s : State} {i : Instr} {b : Byte} (himg : s.image ≠ none) (hr : s.is.retired = true)
  (hm : memRead s s.bank.pc = .ok b) (hd : decode b = .recognized i)
include himg hr hm hd

/-- The fetching call of LD r,n also reads the operand, two bytes in all (rules R145, R180). -/
theorem cycle_load_fetched {dst : OpReg} {n : Byte} (htag : i.tag = .LD_R_N dst)
    (hn : memRead s (s.bank.pc + 1#16) = .ok n) :
    cycle s = .next { s with
      bank := { s.bank with pc := s.bank.pc + 2#16 },
      is := { instr := some i, counter := 1, op1 := n, op2 := 0x00#8 } } := by
  have hoperand : memRead (s.advancePc.install i).tick (s.bank.pc + 1#16) = .ok n := (memRead_congr rfl rfl _).trans hn
  have hpc : s.bank.pc + 1#16 + 1#16 = s.bank.pc + 2#16 := BitVec.add_assoc _ _ _
  rw [cycle_recognized himg hr hm hd, exec_load_cycle1 htag rfl, latchOp1_ok hoperand, ← hpc]
  rfl

/-- The fetching call of LD (HL),r only fetches (rules R145, R182). -/
theorem cycle_store_fetched {src : OpReg} (htag : i.tag = .LD_HL_R src) :
    cycle s = .next (s.advancePc.install i).tick := by
  rw [cycle_recognized himg hr hm hd, exec_store_cycle1 htag rfl]

end FromRetired

/-- The second of two cycles. -/
theorem cycle_second {s : State} {i : Instr} (himg : s.image ≠ none) (hi : s.is.instr = some i)
    (hc : s.is.counter = 1) (hn : i.cycles = 2) : cycle s = exec i s.tick :=
  cycle_inFlight_some himg (InstructionState.not_retired_of_lt hi (by omega)) hi

end Sys2Proof.Machine
end

section
/-! PROOF. The obligations about the loads (41_loads.md), each from the lemmas above. -/

namespace Sys2Proof.Machine

/-- Settles O20: the operand read on cycle 1, and what a write to an operand register does to the bank. -/
theorem loadImmediateByCycle : Obligations.LoadImmediateByCycle := by
  unfold Obligations.LoadImmediateByCycle
  intro i dst s htag
  refine ⟨Instr.cycles_of_tag htag, by rw [htag]; rfl, fun v hc hv => ?_, fun f hc hf => ?_, fun hc => ?_⟩
  · rw [exec_load_cycle1 htag hc, latchOp1_ok hv]
    rfl
  · rw [exec_load_cycle1 htag hc, latchOp1_error hf]
  · exact ⟨exec_load_cycle2 htag hc, s.bank.get_set_reg dst _, fun q hq => s.bank.get_set_other hq _,
      RegBank.set_pc _ _ _, RegBank.set_sp _ _ _⟩

/-- Settles O21: the bank with the source's value in the destination. -/
theorem moveCopiesTheSource : Obligations.MoveCopiesTheSource := by
  unfold Obligations.MoveCopiesTheSource
  intro i dst src s htag
  refine ⟨Instr.cycles_of_tag htag, by rw [htag]; rfl, fun hc => ?_⟩
  refine ⟨_, exec_move_cycle1 htag hc, s.bank.get_set_reg dst _, fun q hq => s.bank.get_set_other hq _,
    RegBank.set_pc _ _ _, RegBank.set_sp _ _ _, ?_⟩
  rintro rfl
  exact s.bank.set_get_self dst

/-- Settles O22: the dispatch on cycle 2 by what MemWrite answers at `xx[HL]`. -/
theorem storeAtHLByCycle : Obligations.StoreAtHLByCycle := by
  unfold Obligations.StoreAtHLByCycle
  intro i src s htag
  refine ⟨Instr.cycles_of_tag htag, by rw [htag]; rfl, exec_store_cycle1 htag, fun hc => ?_,
    fun t h x => exec_store_memRead htag h⟩
  exact ⟨fun k hk he => exec_store_ok htag hc (memWrite_cell s hk he _),
    fun he => exec_store_ok htag hc (memWrite_extram s he _),
    fun hp => exec_store_error htag hc (memWrite_readOnly s hp _),
    fun hg => exec_store_error htag hc (memWrite_gap s hg _)⟩

/-- Settles O25: the frame of a dispatch, with what its tag adds for the registers, `pc` and the latches, and memory. -/
theorem frameOfEveryInstruction : Obligations.FrameOfEveryInstruction := by
  unfold Obligations.FrameOfEveryInstruction
  intro i s t h
  have hframe := exec_frame h
  refine ⟨fun q => exec_get h, hframe.sp, hframe.instr, hframe.counter, exec_pc_is h, fun hstore => ?_,
    fun r htag x => exec_store_memRead htag h, hframe.outside⟩
  have hmem := exec_mem_of_ne_store h hstore
  exact ⟨hmem, memRead_congr hmem hframe.outside.image⟩

/-- Settles O35: the fetching call reads the operand, and the call after it writes the register. -/
theorem loadImmediateRetiresInTwoCycles : Obligations.LoadImmediateRetiresInTwoCycles := by
  unfold Obligations.LoadImmediateRetiresInTwoCycles
  intro s i dst b n himg hr hm hd htag hn
  have hfirst := cycle_load_fetched himg hr hm hd htag hn
  refine ⟨(cycles_one s).trans hfirst, ?_⟩
  rw [cycles_two hfirst, ← RegBank.set_with_pc]
  exact Eq.trans (cycle_second himg rfl rfl (Instr.cycles_of_tag htag)) (exec_load_cycle2 htag rfl)

/-- Settles O36: the fetching call leaves memory, and the call after it is the store at the same `xx[HL]`. -/
theorem storeRetiresInTwoCycles : Obligations.StoreRetiresInTwoCycles := by
  unfold Obligations.StoreRetiresInTwoCycles
  intro s i src b himg hr hm hd htag
  have hfirst := cycle_store_fetched himg hr hm hd htag
  have hsecond := cycle_second (s := (s.advancePc.install i).tick) himg rfl rfl (Instr.cycles_of_tag htag)
  refine ⟨_, (cycles_one s).trans hfirst, rfl, rfl, rfl, fun k hk he => ?_, fun hp => ?_⟩
  · rw [cycles_two hfirst, hsecond]
    exact exec_store_ok htag rfl (memWrite_cell _ hk he _)
  · rw [hsecond]
    exact exec_store_error htag rfl (memWrite_readOnly _ hp _)

end Sys2Proof.Machine
end

section
/-! PROOF. The control family (42_control.md), in layers: the operand reads of JP nn, a run of calls one call longer,
the states a jump passes through. -/

namespace Sys2Proof.Machine

/-! ## The operand reads of JP nn (rules R158, R201) -/

section JumpOperand
variable {s : State}

theorem exec_jp_read1_ok {v : Byte} (hc : s.is.counter = 2) (hv : memRead s s.bank.pc = .ok v) :
    exec .jp_nn s = .next (s.advancePc.setOp1 v) := by
  rw [exec_jp_cycle2 hc, latchOp1_ok hv]

theorem exec_jp_read2_ok {v : Byte} (hc : s.is.counter = 3) (hv : memRead s s.bank.pc = .ok v) :
    exec .jp_nn s = .next (s.advancePc.setOp2 v) := by
  rw [exec_jp_cycle3 hc, latchOp2_ok hv]

theorem exec_jp_read_error {f : Fault} (hc : s.is.counter = 2 ∨ s.is.counter = 3)
    (hf : memRead s s.bank.pc = .error f) : exec .jp_nn s = .fault f := by
  obtain hc | hc := hc
  · rw [exec_jp_cycle2 hc, latchOp1_error hf]
  · rw [exec_jp_cycle3 hc, latchOp2_error hf]

end JumpOperand

/-! ## A run one call longer (rule R152) -/

/-- After a run of `Done` calls, a run one longer is the next call. -/
theorem cycles_succ_of_cycles {k : Nat} {s t : State} (h : cycles k s = .next t) : cycles (k + 1) s = cycle t := by
  induction k generalizing s with
  | zero => cases h; exact cycles_one _
  | succ k ih =>
    obtain ⟨u, hu, hrest⟩ := cycles_succ_next h
    rw [cycles_succ_of_next hu, ih hrest]

/-! ## The states a jump passes through (rule R201) -/

/-- The state after `k` calls of the jump that `s` fetched, before its commit: `k` bytes of it are behind `pc`. -/
def State.jumping (s : State) (k : Nat) (op1 op2 : Byte) : State :=
  { s with
    bank := { s.bank with pc := s.bank.pc + BitVec.ofNat 16 k }
    is := { instr := some .jp_nn, counter := k, op1 := op1, op2 := op2 } }

/-- One more call that advances `pc`. -/
theorem State.jumping_tick_advancePc (s : State) (k : Nat) (op1 op2 : Byte) :
    (s.jumping k op1 op2).tick.advancePc = s.jumping (k + 1) op1 op2 := by
  simp only [State.jumping, State.tick, State.advancePc, State.setPc, BitVec.ofNat_add, BitVec.add_assoc]

theorem State.jumping_not_retired (s : State) {k : Nat} (hk : k < 4) (op1 op2 : Byte) :
    (s.jumping k op1 op2).is.retired = false :=
  InstructionState.not_retired_of_lt (i := .jp_nn) rfl hk

section JumpRun
variable {s : State} (himg : s.image ≠ none)
include himg

/-- The fetching call of JP nn only fetches (rules R145, R201). -/
theorem cycle_jp_fetched (hr : s.is.retired = true) (hm : memRead s s.bank.pc = .ok 0xC3#8) :
    cycle s = .next (s.jumping 1 0x00#8 0x00#8) :=
  (cycle_recognized himg hr hm (decode_opcode .jp_nn)).trans (exec_jp_cycle1 rfl)

/-- Until its commit is done, a call on a jump in flight dispatches its next cycle. -/
theorem cycle_jumping {k : Nat} (hk : k < 4) (op1 op2 : Byte) :
    cycle (s.jumping k op1 op2) = exec .jp_nn (s.jumping k op1 op2).tick :=
  cycle_inFlight_some himg (s.jumping_not_retired hk op1 op2) rfl

/-- The second call latches the high byte of the target. -/
theorem cycle_jp_read1 {op1 op2 v : Byte} (hv : memRead s (s.bank.pc + 1#16) = .ok v) :
    cycle (s.jumping 1 op1 op2) = .next (s.jumping 2 v op2) := by
  have hread : memRead (s.jumping 1 op1 op2).tick (s.bank.pc + 1#16) = .ok v := (memRead_congr rfl rfl _).trans hv
  rw [cycle_jumping himg (by decide), exec_jp_read1_ok rfl hread, State.jumping_tick_advancePc]
  rfl

/-- The third call latches the low byte of the target. -/
theorem cycle_jp_read2 {op1 op2 v : Byte} (hv : memRead s (s.bank.pc + 2#16) = .ok v) :
    cycle (s.jumping 2 op1 op2) = .next (s.jumping 3 op1 v) := by
  have hread : memRead (s.jumping 2 op1 op2).tick (s.bank.pc + 2#16) = .ok v := (memRead_congr rfl rfl _).trans hv
  rw [cycle_jumping himg (by decide), exec_jp_read2_ok rfl hread, State.jumping_tick_advancePc]
  rfl

end JumpRun

end Sys2Proof.Machine
end

section
/-! PROOF. The obligations about the control family (42_control.md), each from the lemmas above. -/

namespace Sys2Proof.Machine

/-- Settles O19: the cycle count of its tag, and its dispatch in any state. -/
theorem nopHasNoSideEffect : Obligations.NopHasNoSideEffect := by
  unfold Obligations.NopHasNoSideEffect
  exact ⟨rfl, exec_nop⟩

/-- Settles O23: the dispatch of JP nn cycle by cycle, its two reads by what MemRead answers at `pc`. -/
theorem jumpByCycle : Obligations.JumpByCycle := by
  unfold Obligations.JumpByCycle
  refine ⟨rfl, rfl, decode_opcode .jp_nn, rfl, fun s => ?_⟩
  refine ⟨exec_jp_cycle1, fun v hv => ?_, fun f hf hc => ?_, fun hc => ?_⟩
  · exact ⟨fun hc => exec_jp_read1_ok hc hv, fun hc => exec_jp_read2_ok hc hv⟩
  · exact exec_jp_read_error hc hf
  · exact ⟨_, exec_jp_cycle4 hc, joinBytes_toNat _ _⟩

/-- Settles O34: the fetch, the two operand reads and the commit, one call after the other. -/
theorem jumpRetiresInExactlyFourCycles : Obligations.JumpRetiresInExactlyFourCycles := by
  unfold Obligations.JumpRetiresInExactlyFourCycles
  intro s hi lo himg hr hm hhi hlo
  have hone : cycles 1 s = .next (s.jumping 1 0x00#8 0x00#8) := (cycles_one s).trans (cycle_jp_fetched himg hr hm)
  have htwo : cycles 2 s = .next (s.jumping 2 hi 0x00#8) := (cycles_succ_of_cycles hone).trans (cycle_jp_read1 himg hhi)
  have hthree : cycles 3 s = .next (s.jumping 3 hi lo) := (cycles_succ_of_cycles htwo).trans (cycle_jp_read2 himg hlo)
  refine ⟨⟨joinBytes hi lo, joinBytes_toNat hi lo, ?_⟩, fun k hpos hlt => ?_⟩
  · exact (cycles_succ_of_cycles hthree).trans (cycle_jp_commit himg rfl rfl)
  · obtain rfl | rfl | rfl : k = 1 ∨ k = 2 ∨ k = 3 := by omega
    · exact ⟨_, hone, s.jumping_not_retired hlt _ _, rfl⟩
    · exact ⟨_, htwo, s.jumping_not_retired hlt _ _, rfl⟩
    · exact ⟨_, hthree, s.jumping_not_retired hlt _ _, rfl⟩

end Sys2Proof.Machine
end

section
/-! PROOF. The command line of the debugger (rules R211 to R214, R245 to R247), in layers: splitting a line at its
spaces, keywords and their commands, hexadecimal addresses, pushing a line to the history and recalling it. -/

namespace Sys2Proof.Machine

/-! ## Splitting a line (rule R211) -/

theorem splitSpaces_space (rest : Line) : splitSpaces (' ' :: rest) = [] :: splitSpaces rest := by
  simp [splitSpaces]

theorem splitSpaces_nonspace {ch : Char} (h : ch ≠ ' ') (rest : Line) :
    splitSpaces (ch :: rest) = consToFirst ch (splitSpaces rest) := by
  simp [splitSpaces, h]

theorem splitSpaces_of_no_space {tok : Line} (h : ' ' ∉ tok) : splitSpaces tok = [tok] := by
  induction tok with
  | nil => rfl
  | cons ch tok ih =>
    rw [splitSpaces_nonspace (List.ne_of_not_mem_cons h).symm, ih (List.not_mem_of_not_mem_cons h), consToFirst]

theorem splitSpaces_append_space {tok : Line} (h : ' ' ∉ tok) (rest : Line) :
    splitSpaces (tok ++ ' ' :: rest) = tok :: splitSpaces rest := by
  induction tok with
  | nil => exact splitSpaces_space rest
  | cons ch tok ih =>
    rw [List.cons_append, splitSpaces_nonspace (List.ne_of_not_mem_cons h).symm,
      ih (List.not_mem_of_not_mem_cons h), consToFirst]

/-! ## Keywords and commands (rules R212, R213) -/

theorem Keyword.ofToken_word (k : Keyword) : Keyword.ofToken k.word = some k := by cases k <;> decide

/-- The keyword of a command (rule R212). -/
def Command.keyword : Command → Keyword
  | .breakAdd _ => .breakAdd
  | .breakRemove _ => .breakRemove
  | .breakList => .breakList
  | .continue_ => .continue_
  | .continueUntilNotImpl => .continueUntilNotImpl
  | .step => .step
  | .next => .next
  | .registers => .registers
  | .history => .history
  | .help => .help
  | .exit => .exit

/-- A command with an address that is accepted is the command of some address. -/
theorem addressCommand_eq_ok {f : Word → Command} {arg : Option Word} {c : Command}
    (h : (arg.map f).elim (.error .badAddress) .ok = (.ok c : Except ParseError Command)) : ∃ a, c = f a := by
  cases arg with
  | none => cases h
  | some a => cases h; exact ⟨a, rfl⟩

/-- A keyword gives commands of that keyword only. -/
theorem keyword_of_command {k : Keyword} {args : List Line} {c : Command} (h : k.command args = .ok c) :
    k = c.keyword := by
  cases k with
  | breakAdd => obtain ⟨a, rfl⟩ := addressCommand_eq_ok h; rfl
  | breakRemove => obtain ⟨a, rfl⟩ := addressCommand_eq_ok h; rfl
  | _ => cases h; rfl

/-- The line of a command of one token is that token. -/
theorem line_of_command {line : Line} {c : Command} (hc : c.keyword.arity = 1) (h : parseLine line = .ok c) :
    line = c.keyword.word := line_of_parse hc h fun _ _ => keyword_of_command

theorem parseTokens_unknown {tok : Line} (h : Keyword.ofToken tok = none) (args : List Line) :
    parseTokens (tok :: args) = .error .unknownCommand := by
  simp [parseTokens, h]

theorem parseTokens_wrongArity {k : Keyword} {args : List Line} (h : args.length + 1 ≠ k.arity) :
    parseTokens (k.word :: args) = .error .wrongArity := by
  simp [parseTokens, k.ofToken_word, h]

theorem parseTokens_command {k : Keyword} {args : List Line} (h : args.length + 1 = k.arity) :
    parseTokens (k.word :: args) = k.command args := by
  simp [parseTokens, k.ofToken_word, h]

theorem parseTokens_breakAdd (tok : Line) :
    parseTokens ["break-add".toList, tok] = ((parseHex tok).map Command.breakAdd).elim (.error .badAddress) .ok :=
  parseTokens_command (k := .breakAdd) rfl

theorem parseTokens_breakRemove (tok : Line) :
    parseTokens ["break-remove".toList, tok] =
      ((parseHex tok).map Command.breakRemove).elim (.error .badAddress) .ok :=
  parseTokens_command (k := .breakRemove) rfl

/-! ## Addresses (rules R214, R222, R228) -/

/-- `parseHex` looks at what is left once the mark is taken off. -/
theorem parseHex_congr {x y : Line} (h : dropHexMark x = dropHexMark y) : parseHex x = parseHex y := by
  simp only [parseHex, h]

theorem dropHexMark_mark (tok : Line) : dropHexMark ('0' :: 'x' :: tok) = tok := rfl

theorem dropHexMark_of_no_mark {tok : Line} (h : ∀ rest, tok ≠ '0' :: 'x' :: rest) : dropHexMark tok = tok := by
  unfold dropHexMark
  split
  · next rest => exact absurd rfl (h rest)
  · rfl

theorem hexValue_hexDigit {n : Nat} (h : n < 16) : hexValue (hexDigit n) = some n :=
  (by decide : ∀ d : Fin 16, hexValue (hexDigit d) = some d.val) ⟨n, h⟩

/-- The two printed digits of a byte are read as that byte. -/
theorem hexNumeral_hexByte (acc : Nat) (v : Byte) (rest : Line) :
    hexNumeral acc (hexByte v ++ rest) = hexNumeral (acc * 256 + v.toNat) rest := by
  have hv := v.isLt
  have hhigh : hexValue (hexDigit (v.toNat / 16)) = some (v.toNat / 16) := hexValue_hexDigit (by omega)
  have hlow : hexValue (hexDigit (v.toNat % 16)) = some (v.toNat % 16) := hexValue_hexDigit (by omega)
  have hsum : (acc * 16 + v.toNat / 16) * 16 + v.toNat % 16 = acc * 256 + v.toNat := by omega
  simp [hexByte, hexNumeral, hhigh, hlow, hsum]

theorem hexNumeral_wordDigits (a : Word) :
    hexNumeral 0 (hexByte (hiByte a) ++ hexByte (loByte a)) = some a.toNat := by
  have hlow := hexNumeral_hexByte (0 * 256 + (hiByte a).toNat) (loByte a) []
  rw [List.append_nil] at hlow
  rw [hexNumeral_hexByte, hlow, hexNumeral, hiByte_toNat, loByte_toNat]
  congr 1
  omega

/-- A numeral of at least one digit whose value fits in 16 bits is read as that word. -/
theorem parseHex_of_numeral {tok : Line} {a : Word} (hne : dropHexMark tok ≠ [])
    (h : hexNumeral 0 (dropHexMark tok) = some a.toNat) : parseHex tok = some a := by
  have ha : ¬ a.toNat > 0xFFFF := by omega
  unfold parseHex
  cases hd : dropHexMark tok with
  | nil => exact absurd hd hne
  | cons ch rest =>
    rw [hd] at h
    simp [h, ha]

theorem parseHex_showWord (a : Word) : parseHex (showWord a) = some a :=
  parseHex_of_numeral (tok := showWord a) (List.cons_ne_nil _ _) (hexNumeral_wordDigits a)

/-! ## The history (rules R245, R247) -/

theorem evictOldest_of_le {cap : Nat} {hist : List Line} (h : hist.length ≤ cap) : evictOldest cap hist = hist :=
  if_neg (Nat.not_lt.mpr h)

theorem evictOldest_of_lt {cap : Nat} {hist : List Line} (h : cap < hist.length) :
    evictOldest cap hist = hist.drop 1 := if_pos h

theorem histRecall_inside {hist : List Line} {n : Nat} (hpos : 1 ≤ n) (hle : n ≤ hist.length) :
    histRecall hist n = some (hist[hist.length - n]'(by omega)) := by
  simp [histRecall, hle, Nat.ne_of_gt hpos]

theorem histRecall_outside {hist : List Line} {n : Nat} (h : n = 0 ∨ hist.length < n) : histRecall hist n = none := by
  obtain rfl | hlt := h
  · rfl
  · simp [histRecall, hlt]

end Sys2Proof.Machine
end

section
/-! PROOF. The obligations about the debugger's command line and its history, each from the lemmas above. -/

namespace Sys2Proof.Machine

/-- Settles O49: membership after adding and removing, and what a filter keeps. -/
theorem breakpointSetOperations : Obligations.BreakpointSetOperations := by
  unfold Obligations.BreakpointSetOperations
  intro bp a hnodup
  have hgone : a ∉ bpRemove a bp := fun h => ((mem_bpRemove a a bp).mp h).2 rfl
  have hrest : ∀ x, x ≠ a → (x ∈ bpRemove a bp ↔ x ∈ bp) := fun x hx => by simp [mem_bpRemove, hx]
  have hsilent : a ∉ bp → bpRemove a bp = bp := fun h =>
    List.filter_eq_self.mpr fun x hx => decide_eq_true fun hxa => h (hxa ▸ hx)
  exact ⟨fun h => if_pos h, fun h => if_neg h, hgone, hrest, List.filter_sublist, hsilent, bpAdd_nodup hnodup a,
    bpRemove_nodup hnodup a⟩

/-- Settles O51: the printed digits, after the mark, are the numeral of the address. -/
theorem printedAddressParsesBack : Obligations.PrintedAddressParsesBack := by
  unfold Obligations.PrintedAddressParsesBack
  exact fun a => ⟨parseHex_showWord a, rfl⟩

/-- Settles O53, by induction on the token. -/
theorem everySpaceSplitsTheLine : Obligations.EverySpaceSplitsTheLine := by
  unfold Obligations.EverySpaceSplitsTheLine
  exact ⟨fun _ => splitSpaces_of_no_space, fun _ rest h => splitSpaces_append_space h rest⟩

/-- Settles O55: what the invariant needs of a push. -/
theorem historyKeepsItsBounds : Obligations.HistoryKeepsItsBounds := by
  unfold Obligations.HistoryKeepsItsBounds
  exact fun _ line _ _ h => histWf_histPush h line

/-- Settles O50: both spellings leave the same digits once the mark is taken off. -/
theorem hexPrefixIsOptional : Obligations.HexPrefixIsOptional := by
  unfold Obligations.HexPrefixIsOptional
  refine ⟨fun tok h => parseHex_congr ?_, by decide⟩
  rw [dropHexMark_mark, dropHexMark_of_no_mark h]

/-- Settles O52: the three errors in the order of the checks. -/
theorem parseErrorsInOrder : Obligations.ParseErrorsInOrder := by
  unfold Obligations.ParseErrorsInOrder
  refine ⟨fun _ args h => parseTokens_unknown h args, fun _ _ => parseTokens_wrongArity, fun tok h => ?_,
    fun tok a h => ?_⟩
  · rw [parseTokens_breakAdd, parseTokens_breakRemove, h]
    exact ⟨rfl, rfl⟩
  · rw [parseTokens_breakAdd, parseTokens_breakRemove, h]
    exact ⟨rfl, rfl⟩

/-- Settles O54: the two lines that are dropped, and any other by the capacity. -/
theorem historyPushContract : Obligations.HistoryPushContract := by
  unfold Obligations.HistoryPushContract
  refine fun cap line hist => ⟨fun h => h ▸ histPush_history cap hist, histPush_last, fun hword hlast => ?_⟩
  rw [histPush_append hword hlast]
  exact ⟨fun h => evictOldest_of_le (by simpa using h), fun h => evictOldest_of_lt (by simpa using h)⟩

/-- Settles O56: the index counts back from the length. -/
theorem recallCountsFromTheMostRecent : Obligations.RecallCountsFromTheMostRecent := by
  unfold Obligations.RecallCountsFromTheMostRecent
  refine fun hist n => ⟨fun h => histRecall_inside h.1 h.2, fun hne => ?_, histRecall_outside⟩
  have hpos : 1 ≤ hist.length := List.length_pos_of_ne_nil hne
  rw [histRecall_inside (Nat.le_refl 1) hpos, List.getLast?_eq_getElem?, List.getElem?_eq_getElem]

end Sys2Proof.Machine
end

section
/-! PROOF. The debugger's transitions (rule R240), in layers: what a step leaves outside the engine, a transition by its
control state, the end of a command, the commands that print, a transition of a running state, what is pushed. -/

namespace Sys2Proof.Machine

/-! ## What a step leaves outside the engine (rules R210, R303, R318) -/

theorem step_driver {s t : State} (h : step s = .next t) : t.driver = s.driver := by
  cases hd : s.driver with
  | frameLoop =>
    rw [step_frameLoop hd] at h
    obtain ⟨_, _, rfl⟩ | ⟨_, hc⟩ | ⟨f, _, _, rfl⟩ := frameTurn_next h
    · exact hd
    · exact (cycle_frame hc).outside.driver.trans hd
    · exact hd
  | debugger =>
    rw [step_debugger hd] at h
    cases debuggerTurn_next h with
    | still _ _ _ _ hdriver => exact hdriver.trans hd
    | ran u v hu hc _ _ _ _ hdriver =>
      have hud : u.driver = s.driver := by obtain rfl | rfl := hu <;> rfl
      exact hdriver.trans ((cycle_frame hc).outside.driver.trans (hud.trans hd))

theorem step_image {s t : State} (h : step s = .next t) : t.image = s.image := by
  obtain he | ⟨u, v, hu, hc, hv⟩ := step_engine h
  · exact he.image
  · exact hv.image.trans ((cycle_frame hc).outside.image.trans hu.image)

theorem frameTurn_bp_hist {s t : State} (h : frameTurn s = .next t) : t.bp = s.bp ∧ t.hist = s.hist := by
  obtain ⟨_, _, rfl⟩ | ⟨_, hc⟩ | ⟨f, _, _, rfl⟩ := frameTurn_next h
  · exact ⟨rfl, rfl⟩
  · exact ⟨(cycle_frame hc).outside.bp, (cycle_frame hc).outside.hist⟩
  · exact ⟨rfl, rfl⟩

/-! ## Reading a line, field by field -/

@[simp] theorem State.withInput_bank (s : State) (l : List Line) : (s.withInput l).bank = s.bank := rfl
@[simp] theorem State.withInput_is (s : State) (l : List Line) : (s.withInput l).is = s.is := rfl
@[simp] theorem State.withInput_mem (s : State) (l : List Line) : (s.withInput l).mem = s.mem := rfl
@[simp] theorem State.withInput_image (s : State) (l : List Line) : (s.withInput l).image = s.image := rfl
@[simp] theorem State.withInput_driver (s : State) (l : List Line) : (s.withInput l).driver = s.driver := rfl
@[simp] theorem State.withInput_frame (s : State) (l : List Line) : (s.withInput l).frame = s.frame := rfl
@[simp] theorem State.withInput_dbg (s : State) (l : List Line) : (s.withInput l).dbg = s.dbg := rfl
@[simp] theorem State.withInput_bp (s : State) (l : List Line) : (s.withInput l).bp = s.bp := rfl
@[simp] theorem State.withInput_hist (s : State) (l : List Line) : (s.withInput l).hist = s.hist := rfl
@[simp] theorem State.withInput_exitRequested (s : State) (l : List Line) :
    (s.withInput l).exitRequested = s.exitRequested := rfl
@[simp] theorem State.withInput_input (s : State) (l : List Line) : (s.withInput l).input = l := rfl
@[simp] theorem State.withInput_out (s : State) (l : List Line) : (s.withInput l).out = s.out := rfl

/-! ## A transition by the control state (rules R215, R240 to R242) -/

theorem runLine_error {line : Line} {e : ParseError} (h : parseLine line = .error e) (s : State) :
    runLine line s = .next ((s.print [.parseError e]).pushHist line) := by
  simp [runLine, h]

theorem runLine_ok {line : Line} {c : Command} (h : parseLine line = .ok c) (s : State) :
    runLine line s = runCommand c line s := by
  simp [runLine, h]

theorem step_runContinue {s : State} (hd : s.driver = .debugger) (hr : s.dbg = .runContinue) :
    step s = continueTurn s := by
  simp [step_debugger hd, debuggerTurn, hr]

theorem step_runCuni {s : State} (hd : s.driver = .debugger) (hr : s.dbg = .runCuni) :
    step s = cuniTurn Params.cuniHonoursBreakpoints s := by
  simp [step_debugger hd, debuggerTurn, hr]

theorem step_terminated {s : State} {why : StopReason} (hd : s.driver = .debugger) (hw : s.dbg = .terminated why) :
    step s = .next s := by
  simp [step_debugger hd, debuggerTurn, hw]

theorem State.pushHist_historyWord (s : State) : s.pushHist historyWord = s := by
  simp [State.pushHist, histPush_history]

section ReadLine
variable {s : State} {line : Line} {rest : List Line}
variable (hd : s.driver = .debugger) (hi : s.dbg = .idle) (hin : s.input = line :: rest)
include hd hi hin

theorem step_line : step s = runLine line (s.withInput rest) := by
  have hdrop : s.dropInput = s.withInput rest := by simp [State.dropInput, State.withInput, hin]
  simp [step_debugger hd, debuggerTurn, hi, hin, hdrop]

theorem step_parseError {e : ParseError} (h : parseLine line = .error e) :
    step s = .next (((s.withInput rest).print [.parseError e]).pushHist line) :=
  (step_line hd hi hin).trans (runLine_error h _)

theorem step_command {c : Command} (h : parseLine line = .ok c) : step s = runCommand c line (s.withInput rest) :=
  (step_line hd hi hin).trans (runLine_ok h _)

/-- The line of `history` is the literal that is not stored, so nothing is pushed (rules R229, R245). -/
theorem step_history (h : parseLine line = .ok .history) :
    step s = .next ((s.withInput rest).print (historyLines s.hist)) := by
  have hline : line = historyWord := line_of_command rfl h
  rw [step_command hd hi hin h, hline]
  exact congrArg _ (State.pushHist_historyWord _)

end ReadLine

/-! ## The end of a command by the outcome of its call (rules R223 to R225, R238, R239) -/

theorem State.atBreakpoint_iff (s : State) : s.atBreakpoint = true ↔ s.bank.pc ∈ s.bp := by
  simp [State.atBreakpoint]

theorem State.atBreakpoint_eq_false_iff (s : State) : s.atBreakpoint = false ↔ s.bank.pc ∉ s.bp := by
  simp [State.atBreakpoint]

/-- A command that ends after a `Done` call pushes its line to the history from before the call. -/
theorem finish_of_done {s t : State} (h : cycle s = .next t) (line : Line) :
    t.finish line = { t with dbg := .idle, hist := histPush Config.historyCapacity line s.hist } := by
  rw [← (cycle_frame h).outside.hist]
  rfl

theorem commandStep_done {s t : State} (h : cycle s = .next t) (line : Line) :
    commandStep line s = .next (t.finish line) := by
  simp [commandStep, h]

theorem commandStep_fault {s : State} {f : Fault} (h : cycle s = .fault f) (line : Line) :
    commandStep line s = .next (s.terminateOn f line) := by
  simp [commandStep, h]

/-- Without an image `step` prints that and stays idle, with its line pushed. -/
theorem commandStep_noImage {s : State} (himg : s.image = none) (hi : s.dbg = .idle) (line : Line) :
    commandStep line s = .next ((s.print [.noImage]).pushHist line) := by
  have hstop : commandStep line s = .next (s.finishNoImage line) := by simp [commandStep, cycle_noImage himg]
  rw [hstop, State.finishNoImage, State.finish, State.setDbg, ← hi]
  rfl

theorem continueTurn_atBreakpoint {s t : State} (h : cycle s = .next t) (hb : t.bank.pc ∈ t.bp) :
    continueTurn s = .next (t.finish Keyword.continue_.word) := by
  simp [continueTurn, h, t.atBreakpoint_iff.mpr hb]

theorem continueTurn_goesOn {s t : State} (h : cycle s = .next t) (hb : t.bank.pc ∉ t.bp) :
    continueTurn s = .next t := by
  simp [continueTurn, h, t.atBreakpoint_eq_false_iff.mpr hb]

theorem continueTurn_fault {s : State} {f : Fault} (h : cycle s = .fault f) :
    continueTurn s = .next (s.terminateOn f Keyword.continue_.word) := by
  simp [continueTurn, h]

theorem continueTurn_noImage {s : State} (h : s.image = none) :
    continueTurn s = .next (s.finishNoImage Keyword.continue_.word) := by
  simp [continueTurn, cycle_noImage h]

section Cuni
variable {honours : Bool} {s t : State}

theorem cuniTurn_atBreakpoint {x : InstructionState} (hp : peek s = .instr x) (h : cycle s = .next t)
    (hh : honours = true) (hb : t.bank.pc ∈ t.bp) :
    cuniTurn honours s = .next (t.finish Keyword.continueUntilNotImpl.word) := by
  simp [cuniTurn, cuniCycle, hp, h, hh, t.atBreakpoint_iff.mpr hb]

theorem cuniTurn_goesOn {x : InstructionState} (hp : peek s = .instr x) (h : cycle s = .next t)
    (hb : honours = false ∨ t.bank.pc ∉ t.bp) : cuniTurn honours s = .next t := by
  have htest : (honours && t.atBreakpoint) = false := by
    rwa [Bool.and_eq_false_iff, t.atBreakpoint_eq_false_iff]
  simp [cuniTurn, cuniCycle, hp, h, htest]

theorem cuniTurn_fault {x : InstructionState} {f : Fault} (hp : peek s = .instr x) (h : cycle s = .fault f) :
    cuniTurn honours s = .next (s.terminateOn f Keyword.continueUntilNotImpl.word) := by
  simp [cuniTurn, cuniCycle, hp, h]

theorem cuniTurn_peekFault {f : Fault} (hp : peek s = .fault f) :
    cuniTurn honours s = .next (s.terminateOn f Keyword.continueUntilNotImpl.word) := by
  simp [cuniTurn, hp]

theorem cuniTurn_raw {b : Byte} {a : Word} (hp : peek s = .raw b a) :
    cuniTurn honours s = .next ((s.print [.raw b a]).finish Keyword.continueUntilNotImpl.word) := by
  simp [cuniTurn, hp]

theorem cuniTurn_noImage (hp : peek s = .noImage) :
    cuniTurn honours s = .next (s.finishNoImage Keyword.continueUntilNotImpl.word) := by
  simp [cuniTurn, hp]

end Cuni

theorem peek_unrecognized {s : State} {b : Byte} (himg : s.image ≠ none) (hr : s.is.retired = true)
    (hm : memRead s s.bank.pc = .ok b) (hd : decode b = .unrecognized) : peek s = .raw b s.bank.pc := by
  obtain ⟨img, himg⟩ := Option.ne_none_iff_exists'.mp himg
  simp only [peek, himg, hr, hm, hd, if_true]

/-- The fault `peek()` shows is the fault of the next call (rule R157). -/
theorem cycle_of_peek_fault {s : State} {f : Fault} (h : peek s = .fault f) : cycle s = .fault f := by
  cases peek_answer h with
  | readError himg hr _ hm => exact cycle_readError himg hr hm

/-- A step that ends in a fault leaves the engine, prints the fault, and is the last one that does anything. -/
theorem terminates_of_step {s u : State} {f : Fault} {line : Line} (hd : s.driver = .debugger)
    (h : step s = .next (u.terminateOn f line)) (he : SameEngine s u) (hout : u.out = s.out) :
    ∃ t, step s = .next t ∧ SameEngine s t ∧ t.dbg = .terminated (.fault f) ∧ t.out = s.out ++ [.fault f] ∧
      step t = .next t :=
  ⟨_, h, ⟨he.bank, he.is, he.mem, he.image⟩, rfl, hout ▸ rfl, step_terminated ((step_driver h).trans hd) rfl⟩

/-! ## The commands that print (rules R222, R226, R228 to R230, R244) -/

/-- What a display command prints; none for any other command. -/
def Command.display (c : Command) (s : State) : Option (List Output) :=
  match c with
  | .breakList => some (breakpointLines s.bp)
  | .registers => some (registerLines s.bank)
  | .next => some [.peeked (peek s)]
  | .help => some [.help]
  | .history => some (historyLines s.hist)
  | .breakAdd _ | .breakRemove _ | .continue_ | .continueUntilNotImpl | .step | .exit => none

theorem runCommand_display {c : Command} {s : State} {lines : List Output} (h : c.display s = some lines)
    (line : Line) : runCommand c line s = .next ((s.print lines).pushHist line) := by
  cases c <;> cases h <;> rfl

theorem step_display {s : State} {line : Line} {rest : List Line} {c : Command} {lines : List Output}
    (hd : s.driver = .debugger) (hi : s.dbg = .idle) (hin : s.input = line :: rest) (hp : parseLine line = .ok c)
    (h : c.display s = some lines) : step s = .next (((s.withInput rest).print lines).pushHist line) :=
  (step_command hd hi hin hp).trans (runCommand_display (s := s.withInput rest) h line)

/-- What a display command shows does not depend on what is pending or printed, nor on its own line being pushed: only
`history` shows the history, and its line is not stored. -/
theorem display_after_display {c : Command} {line : Line} (hp : parseLine line = .ok c) (s : State)
    (rest : List Line) (lines : List Output) :
    c.display (((s.withInput rest).print lines).pushHist line) = c.display s := by
  cases c with
  | history =>
    have hline : line = historyWord := line_of_command rfl hp
    rw [hline, State.pushHist_historyWord]
    rfl
  | _ => rfl

/-! ## What a transition pushes, and how a running state is left (rules R216, R241) -/

theorem commandStep_hist {line : Line} {s t : State} (h : commandStep line s = .next t) :
    t.hist = histPush Config.historyCapacity line s.hist := by
  obtain ⟨v, hv, rfl⟩ | ⟨f, _, rfl⟩ | ⟨_, rfl⟩ := commandStep_next h
  · rw [State.finish_hist, (cycle_frame hv).outside.hist]
  · rfl
  · rfl

/-- Every command pushes its line but the two that start a run. -/
theorem runCommand_hist {c : Command} {line : Line} {s t : State} (hcontinue : c ≠ .continue_)
    (hcuni : c ≠ .continueUntilNotImpl) (h : runCommand c line s = .next t) :
    t.hist = histPush Config.historyCapacity line s.hist := by
  cases c with
  | step => exact commandStep_hist h
  | continue_ => exact absurd rfl hcontinue
  | continueUntilNotImpl => exact absurd rfl hcuni
  | _ => cases h; rfl

theorem runLine_hist {line : Line} {s t : State} (hcontinue : parseLine line ≠ .ok .continue_)
    (hcuni : parseLine line ≠ .ok .continueUntilNotImpl) (h : runLine line s = .next t) :
    t.hist = histPush Config.historyCapacity line s.hist := by
  cases hp : parseLine line with
  | error e => rw [runLine_error hp] at h; cases h; rfl
  | ok c =>
    rw [runLine_ok hp] at h
    exact runCommand_hist (fun hc => hcontinue (hc ▸ hp)) (fun hc => hcuni (hc ▸ hp)) h

/-- How one transition of a running state, with keyword `word`, can end: it goes on, or stops idle for one of the
reasons `stop`, or terminates; the line is pushed when it does not go on, and no pending line is read. -/
inductive RunNext (word : Line) (stop : State → Prop) (s t : State) : Prop where
  | goesOn (hdbg : t.dbg = s.dbg) (hinput : t.input = s.input) (hhist : t.hist = s.hist)
  | stops (hdbg : t.dbg = .idle) (hinput : t.input = s.input)
      (hhist : t.hist = histPush Config.historyCapacity word s.hist) (hwhy : stop t)
  | terminates (f : Fault) (hc : cycle s = .fault f) (hdbg : t.dbg = .terminated (.fault f))
      (hinput : t.input = s.input) (hhist : t.hist = histPush Config.historyCapacity word s.hist)

theorem RunNext.of_done {word : Line} {stop : State → Prop} {s t : State} (h : cycle s = .next t) :
    RunNext word stop s t :=
  have hout := (cycle_frame h).outside
  .goesOn hout.dbg hout.input hout.hist

theorem RunNext.of_finish {word : Line} {stop : State → Prop} {s t : State} (h : cycle s = .next t)
    (hwhy : stop (t.finish word)) : RunNext word stop s (t.finish word) :=
  have hout := (cycle_frame h).outside
  .stops rfl hout.input (congrArg (histPush _ word) hout.hist) hwhy

theorem RunNext.of_fault {word : Line} {stop : State → Prop} {s : State} {f : Fault} (h : cycle s = .fault f) :
    RunNext word stop s (s.terminateOn f word) := .terminates f h rfl rfl rfl

/-- From a running state, one neither idle nor terminated, the line is pushed exactly when the state is left. -/
theorem RunNext.hist {word : Line} {stop : State → Prop} {s t : State} (h : RunNext word stop s t)
    (hidle : s.dbg ≠ .idle) (hterminated : ∀ why, s.dbg ≠ .terminated why) :
    t.hist = if t.dbg = s.dbg then s.hist else histPush Config.historyCapacity word s.hist := by
  cases h with
  | goesOn hdbg _ hhist => rw [if_pos hdbg, hhist]
  | stops hdbg _ hhist => rw [if_neg (hdbg ▸ hidle.symm), hhist]
  | terminates f _ hdbg _ hhist => rw [if_neg (hdbg ▸ (hterminated _).symm), hhist]

theorem continueTurn_runNext {s t : State} (h : continueTurn s = .next t) :
    RunNext Keyword.continue_.word (fun t => t.bank.pc ∈ t.bp ∨ s.image = none) s t := by
  obtain ⟨v, hv, ⟨hb, rfl⟩ | ⟨_, rfl⟩⟩ | ⟨f, hf, rfl⟩ | ⟨himg, rfl⟩ := continueTurn_next h
  · exact .of_finish hv (.inl (v.atBreakpoint_iff.mp hb))
  · exact .of_done hv
  · exact .of_fault hf
  · exact .stops rfl rfl rfl (.inr himg)

theorem cuniTurn_runNext {honours : Bool} {s t : State} (h : cuniTurn honours s = .next t) :
    RunNext Keyword.continueUntilNotImpl.word
      (fun t => (∃ b a, peek s = .raw b a) ∨ s.image = none ∨ (honours = true ∧ t.bank.pc ∈ t.bp)) s t := by
  obtain ⟨_, _, v, hv, ⟨hb, rfl⟩ | ⟨_, rfl⟩⟩ | ⟨_, f, _, hf, rfl⟩ | ⟨b, a, hp, rfl⟩ | ⟨f, hp, rfl⟩ | ⟨himg, rfl⟩ :=
    cuniTurn_next h
  · obtain ⟨hh, hb⟩ := Bool.and_eq_true_iff.mp hb
    exact .of_finish hv (.inr (.inr ⟨hh, v.atBreakpoint_iff.mp hb⟩))
  · exact .of_done hv
  · exact .of_fault hf
  · exact .stops rfl rfl rfl (.inl ⟨b, a, hp⟩)
  · exact .of_fault (cycle_of_peek_fault hp)
  · exact .stops rfl rfl rfl (.inr (.inl himg))

end Sys2Proof.Machine
end

section
/-! PROOF. The obligations about the debugger's transitions (45_debugger.md), each from the lemmas above. -/

namespace Sys2Proof.Machine

/-- Settles O42: from what a step does to the engine and to what is outside it. -/
theorem debuggerChangesTheEngineByCycleOnly : Obligations.DebuggerChangesTheEngineByCycleOnly := by
  unfold Obligations.DebuggerChangesTheEngineByCycleOnly
  refine ⟨fun _ _ _ => step_engine, fun s t hd h => ?_, fun _ _ h => ⟨step_image h, step_driver h⟩⟩
  rw [step_frameLoop hd] at h
  exact frameTurn_bp_hist h

/-- Settles O43: both outcomes of the test after a `Done` call. -/
theorem continueTestsBreakpointsAfterEveryCycle : Obligations.ContinueTestsBreakpointsAfterEveryCycle := by
  unfold Obligations.ContinueTestsBreakpointsAfterEveryCycle
  intro s t hd hr hc
  have hout := (cycle_frame hc).outside
  rw [step_runContinue hd hr]
  refine ⟨fun hb => ?_, fun hb => ⟨continueTurn_goesOn hc hb, hout.dbg.trans hr⟩⟩
  exact ⟨_, continueTurn_atBreakpoint hc hb, rfl, ⟨rfl, rfl, rfl, rfl⟩, hout.bp, hout.out⟩

/-- Settles O44: a row is the lemma of its command or outcome, with the fields its operations set written out. -/
theorem debuggerTransitionTable : Obligations.DebuggerTransitionTable := by
  unfold Obligations.DebuggerTransitionTable
  refine fun s hd => ⟨fun line rest hi hin => ?_, fun hr => ?_, fun hr => ?_, fun why hw => step_terminated hd hw⟩
  · have hcommand : ∀ {c}, parseLine line = .ok c → step s = runCommand c line (s.withInput rest) :=
      step_command hd hi hin
    refine ⟨fun e hp => step_parseError hd hi hin hp, fun a hp => hcommand hp, fun a hp => hcommand hp, hcommand,
      hcommand, hcommand, hcommand, step_history hd hi hin, hcommand, hcommand, hcommand, fun hp => ?_⟩
    rw [hcommand hp]
    refine ⟨fun t hc => ?_, fun f hf => commandStep_fault hf line,
      fun himg => commandStep_noImage (s := s.withInput rest) himg hi line⟩
    exact (commandStep_done hc line).trans (congrArg _ (finish_of_done hc line))
  · rw [step_runContinue hd hr]
    refine ⟨fun t hc hb => ?_, fun t hc hb => ?_, continueTurn_noImage, fun f => continueTurn_fault⟩
    · have hout := (cycle_frame hc).outside
      exact ⟨continueTurn_goesOn hc (hout.bp ▸ hb), hout.dbg.trans hr⟩
    · have hb' : t.bank.pc ∈ t.bp := (cycle_frame hc).outside.bp ▸ hb
      exact (continueTurn_atBreakpoint hc hb').trans (congrArg _ (finish_of_done hc _))
  · rw [step_runCuni hd hr]
    refine ⟨fun x t hp hc hb => ?_, fun x t hp hc hh hb => ?_, fun b a => cuniTurn_raw, cuniTurn_noImage, ?_⟩
    · have hout := (cycle_frame hc).outside
      exact ⟨cuniTurn_goesOn hp hc (hout.bp ▸ hb), hout.dbg.trans hr⟩
    · have hb' : t.bank.pc ∈ t.bp := (cycle_frame hc).outside.bp ▸ hb
      exact (cuniTurn_atBreakpoint hp hc hh hb').trans (congrArg _ (finish_of_done hc _))
    · rintro f (hp | ⟨x, hp, hf⟩)
      · exact cuniTurn_peekFault hp
      · exact cuniTurn_fault hp hf

/-- Settles O45: the ends of a transition of the two running states. -/
theorem noOtherWayOutOfARunningState : Obligations.NoOtherWayOutOfARunningState := by
  unfold Obligations.NoOtherWayOutOfARunningState
  refine fun s t hd h => ⟨fun hr => ?_, fun hr => ?_⟩
  · rw [step_runContinue hd hr] at h
    cases continueTurn_runNext h with
    | goesOn hdbg hinput => exact ⟨hinput, .inl (hdbg.trans hr)⟩
    | stops hdbg hinput _ hwhy => exact ⟨hinput, .inr (.inl ⟨hdbg, hwhy⟩)⟩
    | terminates f hc hdbg hinput => exact ⟨hinput, .inr (.inr ⟨f, hdbg, hc⟩)⟩
  · rw [step_runCuni hd hr] at h
    cases cuniTurn_runNext h with
    | goesOn hdbg hinput => exact ⟨hinput, .inl (hdbg.trans hr)⟩
    | stops hdbg hinput _ hwhy => exact ⟨hinput, .inr (.inl ⟨hdbg, hwhy⟩)⟩
    | terminates f hc hdbg hinput => exact ⟨hinput, .inr (.inr ⟨f, hdbg, hc⟩)⟩

/-- Settles O46: `peek()` shows the byte, and the transition of that answer calls no `cycle()`. -/
theorem cuniStopsBeforeTheUndecodableByte : Obligations.CuniStopsBeforeTheUndecodableByte := by
  unfold Obligations.CuniStopsBeforeTheUndecodableByte
  intro s b hd hr himg hretired hm hdec
  rw [step_runCuni hd hr]
  exact ⟨_, cuniTurn_raw (peek_unrecognized himg hretired hm hdec), rfl, ⟨rfl, rfl, rfl, rfl⟩, rfl⟩

/-- Settles O47: the three commands that call `cycle()` end a fault in the same way. -/
theorem faultTerminatesTheDebugger : Obligations.FaultTerminatesTheDebugger := by
  unfold Obligations.FaultTerminatesTheDebugger
  refine ⟨fun s f hd hf hcases => ?_, fun s line rest e hd hi hin hp => ⟨_, step_parseError hd hi hin hp, hi⟩⟩
  obtain hr | ⟨hr, x, hp⟩ | ⟨hi, line, rest, hin, hp⟩ := hcases
  · exact terminates_of_step hd ((step_runContinue hd hr).trans (continueTurn_fault hf)) (.refl s) rfl
  · exact terminates_of_step hd ((step_runCuni hd hr).trans (cuniTurn_fault hp hf)) (.refl s) rfl
  · have hf' : cycle (s.withInput rest) = .fault f := by rw [cycle_withInput, hf]; rfl
    exact terminates_of_step hd ((step_command hd hi hin hp).trans (commandStep_fault hf' line))
      ⟨rfl, rfl, rfl, rfl⟩ rfl

/-- Settles O57: the second line shows what the first one left to show, which is the same. -/
theorem displaysAreIdempotent : Obligations.DisplaysAreIdempotent := by
  unfold Obligations.DisplaysAreIdempotent
  intro s l1 l2 rest c hd hi hin hc hp1 hp2
  obtain ⟨lines, hlines⟩ : ∃ lines, c.display s = some lines := by
    rcases hc with rfl | rfl | rfl | rfl | rfl <;> exact ⟨_, rfl⟩
  have hlines' := (display_after_display hp1 s (l2 :: rest) lines).trans hlines
  have h1 := step_display hd hi hin hp1 hlines
  have h2 := step_display (s := ((s.withInput (l2 :: rest)).print lines).pushHist l1) hd hi rfl hp2 hlines'
  exact ⟨_, _, lines, h1, h2, by simp, by simp, by constructor <;> simp, by simp, by simp [hi]⟩

/-- Settles O58: what a read line pushes, by its parse, and what the end of a running state pushes. -/
theorem everyCommandLineIsPushed : Obligations.EveryCommandLineIsPushed := by
  unfold Obligations.EveryCommandLineIsPushed
  refine ⟨fun s t hd h => ⟨fun line rest hi hin => ⟨fun hp => ?_, fun hp => ?_, fun hp => ?_,
    fun _ hcontinue hcuni => ?_⟩, fun hr => ?_, fun hr => ?_⟩, by decide⟩
  · rw [step_history hd hi hin hp] at h
    cases h
    exact ⟨line_of_command rfl hp, rfl, rfl⟩
  · rw [step_command hd hi hin hp] at h
    cases h
    exact ⟨line_of_command rfl hp, rfl, rfl⟩
  · rw [step_command hd hi hin hp] at h
    cases h
    exact ⟨line_of_command rfl hp, rfl, rfl⟩
  · rw [step_line hd hi hin] at h
    exact runLine_hist (s := s.withInput rest) hcontinue hcuni h
  · rw [step_runContinue hd hr] at h
    have hhist := (continueTurn_runNext h).hist (by simp [hr]) (by simp [hr])
    rwa [hr] at hhist
  · rw [step_runCuni hd hr] at h
    have hhist := (cuniTurn_runNext h).hist (by simp [hr]) (by simp [hr])
    rwa [hr] at hhist

/-- Settles O48: the transition of a parse error, field by field. -/
theorem parseErrorChangesNothing : Obligations.ParseErrorChangesNothing := by
  unfold Obligations.ParseErrorChangesNothing
  intro s line rest e hd hi hin hp
  exact ⟨_, step_parseError hd hi hin hp, rfl, rfl, ⟨rfl, rfl, rfl, rfl⟩, hi, rfl⟩

end Sys2Proof.Machine
end

section
/-! PROOF. The faults (60_exceptions.md), in layers: where a call reads and stores, what a faulting dispatch can be, the
causes of a faulting call. -/

namespace Sys2Proof.Machine

/-! ## Where a call reads and stores (rules R144, R180 to R182, R201) -/

/-- A call from `s` may read the byte at `a`: the opcode of a retired engine at `pc`, the operand of the LD r,n it
fetches there one further, or an operand of the JP nn in flight at `pc`. -/
def State.ReadsAt (s : State) (a : Word) : Prop :=
  (s.is.retired = true ∧ a = s.bank.pc) ∨
  (s.is.retired = true ∧ a = s.bank.pc + 1#16 ∧
    ∃ b i d, memRead s s.bank.pc = .ok b ∧ decode b = .recognized i ∧ i.tag = .LD_R_N d) ∨
  (s.is.tag = .JP_NN ∧ (s.is.counter = 1 ∨ s.is.counter = 2) ∧ a = s.bank.pc)

/-- A call from `s` stores at `a`: cycle 2 of the LD (HL),r in flight, at `xx[HL]`. -/
def State.StoresAt (s : State) (a : Word) : Prop :=
  (∃ r, s.is.tag = .LD_HL_R r) ∧ s.is.counter = 1 ∧ a = s.bank.getPair .HL

/-! ## A faulting dispatch (rules R146, R147) -/

/-- The sentinel does not fault, so a faulting dispatch is an instruction's, at the next count. -/
theorem runCycle_fault {s : State} {f : Fault} (h : runCycle s = .fault f) :
    ∃ i, s.is.instr = some i ∧ ExecFault i s.tick f := by
  cases hi : s.is.instr with
  | none => rw [runCycle_none hi] at h; cases h
  | some i => exact ⟨i, rfl, exec_fault (runCycle_some hi ▸ h)⟩

/-! ## A faulting call (rules R262 to R267) -/

/-- Everything a faulting call can be: an opcode that is Unrecognized, a read that fails or a store that fails. The
store is dispatched after the increment of the counter. -/
inductive CycleFault (s : State) : Fault → Prop where
  | invalidOpcode (hr : s.is.retired = true) (b : Byte) (hm : memRead s s.bank.pc = .ok b)
      (hd : decode b = .unrecognized) : CycleFault s (.invalidOpcode b s.bank.pc)
  | read (a : Word) (ha : s.ReadsAt a) (f : Fault) (hf : memRead s a = .error f) : CycleFault s f
  | store (a : Word) (ha : s.StoresAt a) (v : Byte) (f : Fault) (hf : memWrite s.tick a v = .error f) : CycleFault s f

/-- The fetch of a retired engine fails by its read or by its decode. -/
theorem CycleFault.of_fetch {s : State} {f : Fault} (hr : s.is.retired = true) (h : fetch s = .error f) :
    CycleFault s f := by
  obtain hf | ⟨b, hm, hd, rfl⟩ := fetch_error h
  · exact .read _ (.inl ⟨hr, rfl⟩) f hf
  · exact .invalidOpcode hr b hm hd

/-- After a fetch the dispatch is cycle 1, in which only LD r,n can fault, at the operand behind its opcode. -/
theorem CycleFault.of_fetched {s : State} {f : Fault} {b : Byte} {i : Instr} (hr : s.is.retired = true)
    (hb : memRead s s.bank.pc = .ok b) (hd : decode b = .recognized i)
    (h : ExecFault i (s.advancePc.install i).tick f) : CycleFault s f := by
  have hone : (s.advancePc.install i).tick.is.counter = 1 := rfl
  cases h with
  | operand hcycle hf =>
    obtain ⟨d, htag, -⟩ | ⟨-, hc⟩ := hcycle
    · exact .read _ (.inr (.inl ⟨hr, rfl, b, i, d, hb, hd, htag⟩)) f ((memRead_congr rfl rfl _).symm.trans hf)
    · omega
  | store _ _ hc => omega

/-- In flight the dispatch is cycle 2 or later, in which only the operand reads of JP nn and the store of LD (HL),r can
fault. -/
theorem CycleFault.of_inFlight {s : State} {f : Fault} {i : Instr} (hi : s.is.instr = some i)
    (hpos : 1 ≤ s.is.counter) (h : ExecFault i s.tick f) : CycleFault s f := by
  have htick : s.tick.is.counter = s.is.counter + 1 := rfl
  have hsame : s.is.tag = i.tag := InstructionState.tag_of_some hi
  cases h with
  | operand hcycle hf =>
    obtain ⟨_, -, hc⟩ | ⟨rfl, hc⟩ := hcycle
    · omega
    · exact .read _ (.inr (.inr ⟨hsame, by omega, rfl⟩)) f ((memRead_congr rfl rfl _).symm.trans hf)
  | store r htag hc hf => exact .store _ ⟨⟨r, hsame.trans htag⟩, by omega, rfl⟩ _ f hf

/-- The causes of a faulting call; that an instruction in flight has run its first cycle is part of the invariant. -/
theorem cycle_fault_cause {s : State} {f : Fault} (hpos : s.is.instr ≠ none → 1 ≤ s.is.counter)
    (h : cycle s = .fault f) : CycleFault s f := by
  obtain ⟨-, ⟨hr, hfetch⟩ | ⟨u, hu, hrun⟩⟩ := cycle_fault h
  · exact .of_fetch hr hfetch
  · obtain ⟨i, hi, hexec⟩ := runCycle_fault hrun
    cases hu with
    | fetched hr b j hb hd =>
      obtain rfl : j = i := Option.some.inj hi
      exact .of_fetched hr hb hd hexec
    | inFlight => exact .of_inFlight hi (hpos (by simp [hi])) hexec

end Sys2Proof.Machine
end

section
/-! PROOF. The obligation about the faults (60_exceptions.md), from the lemmas above. -/

namespace Sys2Proof.Machine

/-- Settles O28: by the three causes of a faulting call, a failing read or store by the region of its address. -/
theorem causeOfEveryFault : Obligations.CauseOfEveryFault := by
  unfold Obligations.CauseOfEveryFault
  intro s f hinv h
  obtain ⟨⟨img, himg⟩, -⟩ := cycle_fault h
  cases cycle_fault_cause hinv.counterPos h with
  | invalidOpcode hr b hm hd => exact ⟨hr, rfl, hm, hd⟩
  | read a ha _ hf =>
    obtain ⟨rfl, hgap⟩ | ⟨rfl, hrom, hbeyond⟩ := memRead_error hf
    · exact ⟨hgap, ha⟩
    · exact ⟨backing_eq_image_iff.mp hrom, ⟨img, himg, hbeyond img himg⟩, ha⟩
  | store a ha _ _ hf =>
    obtain ⟨rfl, hpolicy⟩ | ⟨rfl, hgap⟩ := memWrite_error hf
    · exact ⟨writePolicy_eq_readOnly_iff.mp hpolicy, ha⟩
    · exact ⟨hgap, ha⟩

end Sys2Proof.Machine
end

section
/-! PROOF. The frame loop (rules R274, R318), in layers: its turn by the outcome of the call of `cycle()`, the step of a
loop that has ended, what a step does to the state of the loop. -/

namespace Sys2Proof.Machine

/-! ## A turn by the outcome of its call (rule R318) -/

theorem frameTurn_fault {s : State} {f : Fault} (hf : s.frame = .running) (h : cycle s = .fault f) :
    frameTurn s = .next (s.stopFrame f) := by
  rw [frameTurn_running hf, h]

theorem frameTurn_noImage {s : State} (hf : s.frame = .running) (himg : s.image = none) :
    frameTurn s = .refused .noImage := by
  rw [frameTurn_running hf, cycle_noImage himg]

/-! ## A step of a loop that has ended (rule R274) -/

theorem step_frameEnded {s : State} {f : Fault} (hd : s.driver = .frameLoop) (hf : s.frame = .terminated f) :
    step s = .next s :=
  (step_frameLoop hd).trans (frameTurn_terminated hf)

/-! ## What a step does to the state of the loop -/

theorem debuggerTurn_frame {s t : State} (h : debuggerTurn s = .next t) : t.frame = s.frame := by
  cases debuggerTurn_next h with
  | still _ _ _ _ _ hframe => exact hframe
  | ran u v hu hc _ _ _ _ _ hframe =>
    have hus : u.frame = s.frame := by obtain rfl | rfl := hu <;> rfl
    exact hframe.trans ((cycle_frame hc).outside.frame.trans hus)

theorem frameTurn_frame {s t : State} (h : frameTurn s = .next t) :
    t.frame = s.frame ∨ ∃ f, s.frame = .running ∧ cycle s = .fault f ∧ t.frame = .terminated f := by
  obtain ⟨_, _, rfl⟩ | ⟨_, hc⟩ | ⟨f, hr, hc, rfl⟩ := frameTurn_next h
  · exact .inl rfl
  · exact .inl (cycle_frame hc).outside.frame
  · exact .inr ⟨f, hr, hc, rfl⟩

end Sys2Proof.Machine
end

section
/-! PROOF. The obligation about the frame loop (70_reset_and_hazards.md), from the lemmas above. -/

namespace Sys2Proof.Machine

/-- Settles O59: a running loop by the outcome of its call, an ended loop, and the state of the loop by the driver. -/
theorem frameLoopPrintsAFaultAndTerminates : Obligations.FrameLoopPrintsAFaultAndTerminates := by
  unfold Obligations.FrameLoopPrintsAFaultAndTerminates
  refine ⟨fun s hd hr => ?_, fun _ _ => step_frameEnded, fun s t h => ?_⟩
  · rw [step_frameLoop hd]
    refine ⟨fun f hc => ⟨s.stopFrame f, frameTurn_fault hr hc, ⟨rfl, rfl, rfl, rfl⟩, rfl, rfl, rfl, rfl, ?_⟩,
      frameTurn_noImage hr⟩
    exact step_frameEnded hd rfl
  · cases hd : s.driver with
    | frameLoop =>
      obtain hsame | ⟨f, hr, hc, ht⟩ := frameTurn_frame (step_frameLoop hd ▸ h)
      · exact .inl hsame
      · exact .inr ⟨f, rfl, hr, hc, ht⟩
    | debugger => exact .inl (debuggerTurn_frame (step_debugger hd ▸ h))

end Sys2Proof.Machine
end
